-- ==== Sys2Proof/Word.lean ====
section
/-! DEFINITION. The machine's data widths (spec 00_scope R7): byte, word, long word. -/

namespace Sys2Proof

/-- 8 bits, the size `B`. -/
abbrev Byte := BitVec 8

/-- 16 bits, the size `W`, and one word of an instruction. -/
abbrev Word := BitVec 16

/-- 32 bits, the size `L`: register contents, addresses, operands. -/
abbrev Long := BitVec 32

end Sys2Proof
end

