-- ==== Sys2Proof/Syntax.lean ====
section
/-! DEFINITION. The instructions as data: one constructor of `Instr` per row of
spec/opcode_table.json, in the table's order. -/

namespace Sys2Proof

/-- Operand sizes (00_scope R7). -/
inductive Size where
  | byte
  | word
  | long
deriving DecidableEq, Repr

/-- The 3-bit number of a data or address register (30_encoding R128). -/
abbrev RegNum := Fin 8

/-- `R[k]` of 00_scope R8: a data or an address register. -/
inductive Reg where
  | d (n : RegNum)
  | a (n : RegNum)
deriving DecidableEq, Repr

/-- The extension word of the indexed modes, field by field (30_encoding R115). -/
structure IndexWord where
  /-- D/A and REGISTER, bits 15-12. -/
  xn : Reg
  /-- W/L, bit 11: set for a long index; clear is an address error. -/
  long : Bool
  /-- SCALE, bits 10-9: 11 is an address error. -/
  scale : BitVec 2
  /-- EV, bit 8: set is an address error. -/
  full : Bool
  /-- DISPLACEMENT, bits 7-0. -/
  d8 : Byte
deriving DecidableEq, Repr

/-- The twelve effective addressing modes with their extension words (30_encoding R110).
An immediate is held zero-extended from the operand's size. -/
inductive Ea where
  | dn (n : RegNum)
  | an (n : RegNum)
  | ind (n : RegNum)
  | postinc (n : RegNum)
  | predec (n : RegNum)
  | disp (n : RegNum) (d16 : Word)
  | index (n : RegNum) (w : IndexWord)
  | absW (a16 : Word)
  | absL (a32 : Long)
  | pcDisp (d16 : Word)
  | pcIndex (w : IndexWord)
  | imm (v : Long)
deriving DecidableEq, Repr

/-- The sixteen condition codes (10_state R33), in the order of their codes. -/
inductive Cond where
  | t | f | hi | ls | cc | cs | ne | eq | vc | vs | pl | mi | ge | lt | gt | le
deriving DecidableEq, Repr

/-- The displacement of a branch: in the operation word, or in the word after it when
that field is $00 (45_program_control R331). -/
inductive Disp where
  | byte (d8 : Byte)
  | word (d16 : Word)
deriving DecidableEq, Repr

/-- The unused operand words of TRAPF (45_program_control R341). -/
inductive TrapfOperand where
  | none
  | word (v : Word)
  | long (v : Long)
deriving DecidableEq, Repr

/-- The instruction set (00_scope R2), a constructor per row of the opcode table. -/
inductive Instr where
  | ori (n : RegNum) (v : Long)
  | andi (n : RegNum) (v : Long)
  | subi (n : RegNum) (v : Long)
  | addi (n : RegNum) (v : Long)
  | eori (n : RegNum) (v : Long)
  | cmpi (n : RegNum) (v : Long)
  | btstDyn (r : RegNum) (ea : Ea)
  | btstImm (b : Byte) (ea : Ea)
  | bchgDyn (r : RegNum) (ea : Ea)
  | bchgImm (b : Byte) (ea : Ea)
  | bclrDyn (r : RegNum) (ea : Ea)
  | bclrImm (b : Byte) (ea : Ea)
  | bsetDyn (r : RegNum) (ea : Ea)
  | bsetImm (b : Byte) (ea : Ea)
  | moveB (src dst : Ea)
  | moveW (src dst : Ea)
  | moveL (src dst : Ea)
  | moveaW (src : Ea) (n : RegNum)
  | moveaL (src : Ea) (n : RegNum)
  | negx (n : RegNum)
  | moveFromSr (n : RegNum)
  | clrB (ea : Ea)
  | clrW (ea : Ea)
  | clrL (ea : Ea)
  | moveFromCcr (n : RegNum)
  | neg (n : RegNum)
  | moveToCcr (ea : Ea)
  | not (n : RegNum)
  | moveToSr (ea : Ea)
  | extW (n : RegNum)
  | extL (n : RegNum)
  | extbL (n : RegNum)
  | swap (n : RegNum)
  | pea (ea : Ea)
  | movemStore (mask : Word) (ea : Ea)
  | movemLoad (mask : Word) (ea : Ea)
  | tstB (ea : Ea)
  | tstW (ea : Ea)
  | tstL (ea : Ea)
  | halt
  | pulse
  | illegal4AFC
  | muluL (n : RegNum) (ea : Ea)
  | mulsL (n : RegNum) (ea : Ea)
  | trap (v : BitVec 4)
  | link (n : RegNum) (d16 : Word)
  | unlk (n : RegNum)
  | nop
  | stop (v : Word)
  | rte
  | rts
  | movec (r : Reg) (rc : BitVec 12)
  | jsr (ea : Ea)
  | jmp (ea : Ea)
  | lea (ea : Ea) (n : RegNum)
  | addq (q : BitVec 3) (ea : Ea)
  | subq (q : BitVec 3) (ea : Ea)
  | scc (c : Cond) (n : RegNum)
  | trapf (o : TrapfOperand)
  | trapfW (o : TrapfOperand)
  | trapfL (o : TrapfOperand)
  | bra (d : Disp)
  | bsr (d : Disp)
  | bhi (d : Disp)
  | bls (d : Disp)
  | bcc (d : Disp)
  | bcs (d : Disp)
  | bne (d : Disp)
  | beq (d : Disp)
  | bvc (d : Disp)
  | bvs (d : Disp)
  | bpl (d : Disp)
  | bmi (d : Disp)
  | bge (d : Disp)
  | blt (d : Disp)
  | bgt (d : Disp)
  | ble (d : Disp)
  | moveq (v : Byte) (n : RegNum)
  | orToDn (n : RegNum) (ea : Ea)
  | orToEa (n : RegNum) (ea : Ea)
  | subToDn (n : RegNum) (ea : Ea)
  | subToEa (n : RegNum) (ea : Ea)
  | suba (ea : Ea) (n : RegNum)
  | subx (src dst : RegNum)
  | cmp (ea : Ea) (n : RegNum)
  | cmpa (ea : Ea) (n : RegNum)
  | eor (n : RegNum) (ea : Ea)
  | andToDn (n : RegNum) (ea : Ea)
  | andToEa (n : RegNum) (ea : Ea)
  | muluW (ea : Ea) (n : RegNum)
  | mulsW (ea : Ea) (n : RegNum)
  | addToDn (n : RegNum) (ea : Ea)
  | addToEa (n : RegNum) (ea : Ea)
  | adda (ea : Ea) (n : RegNum)
  | addx (src dst : RegNum)
  | asrImm (q : BitVec 3) (n : RegNum)
  | asrReg (c n : RegNum)
  | aslImm (q : BitVec 3) (n : RegNum)
  | aslReg (c n : RegNum)
  | lsrImm (q : BitVec 3) (n : RegNum)
  | lsrReg (c n : RegNum)
  | lslImm (q : BitVec 3) (n : RegNum)
  | lslReg (c n : RegNum)
  | wddataB (ea : Ea)
  | wddataW (ea : Ea)
  | wddataL (ea : Ea)
  | wdebug (ea : Ea)
  | illegal0000
  | lineA (x : BitVec 12)
  | lineF (x : BitVec 12)
deriving DecidableEq, Repr

end Sys2Proof
end

