-- ==== Sys2Proof/Config.lean ====
section
/-! DEFINITION. What a particular chip fixes (00_scope R5), as plain data, and the values
that the spec leaves open, as constants without a body. -/

namespace Sys2Proof

/-- The control registers of Table 5-2 that MOVEC reaches, VBR apart (10_state R35). -/
inductive CtrlReg where
  | cacr | tcr | acr2 | acr3 | acr0 | acr1 | rombar | rambar0 | rambar1 | mbar
deriving DecidableEq, Repr

/-- The contents of those registers, which no instruction can read (46_system_control R365). -/
structure ControlRegs where
  cacr : Long
  tcr : Long
  acr2 : Long
  acr3 : Long
  acr0 : Long
  acr1 : Long
  rombar : Long
  rambar0 : Long
  rambar1 : Long
  mbar : Long
deriving DecidableEq, Repr, Inhabited

/-- How the memory system ends a write cycle (20_memory R67). -/
inductive WriteAnswer where
  | ok
  | busError
  | writeProtected
deriving DecidableEq, Repr, Inhabited

/-- What a range of addresses answers, per kind of access (20_memory R69). -/
structure Answers where
  fetch : Bool
  read : Bool
  write : WriteAnswer
deriving DecidableEq, Repr, Inhabited

/-- A range of addresses, `first` to `last` inclusive, with its answers in user and in
supervisor mode (20_memory R69, R78). -/
structure Region where
  first : Nat
  last : Nat
  user : Answers
  supervisor : Answers
deriving DecidableEq, Repr, Inhabited

/-- The platform's `MEMORY_MAP` (00_scope R5): the first region that holds an address
answers for it; an address in no region answers by the last two fields. -/
structure MemoryMap where
  regions : List Region
  user : Answers
  supervisor : Answers
deriving DecidableEq, Repr, Inhabited

/-- Ordinary RAM: every access completes. -/
def Answers.ram : Answers := { fetch := true, read := true, write := .ok }

/-- RAM everywhere and no protected range, the map of 92_eei_decisions section 2. -/
def MemoryMap.ram : MemoryMap := { regions := [], user := .ram, supervisor := .ram }

/-- What a MOVEC to an MBAR that the chip lacks does (46_system_control R365). -/
inductive MbarBehaviour where
  | hang
  | accessError
deriving DecidableEq, Repr

/-- `TRAPF_OPMODE_MAP`: how many operand words the opmodes 010, 011 and 100 select
(45_program_control R341). -/
structure TrapfMap where
  op2 : Fin 3
  op3 : Fin 3
  op4 : Fin 3
deriving DecidableEq, Repr

/-- `ADDRESS_ERROR_FS`, when the platform fixes it (60_exceptions R421). -/
structure AddressErrorFs where
  oddTarget : BitVec 4
  invalidIndex : BitVec 4
  misalignedRead : BitVec 4
  misalignedWrite : BitVec 4
deriving DecidableEq, Repr

/-- The implementation parameters of 00_scope R5 that stay fixed while the machine runs.
`MEMORY_MAP` and `IRQ_SOURCE` are fields of the state, which a step changes. -/
structure Config where
  /-- `HAS_MISALIGN_MODULE` (20_memory R64, R65). -/
  hasMisalign : Bool
  /-- `HAS_AUTOVECTOR_MODULE` (60_exceptions R442). -/
  hasAutovector : Bool
  /-- `HAS_DEBUG_MODULE` (60_exceptions R431, 46_system_control R368). -/
  hasDebug : Bool
  /-- `IMPLEMENTED_CONTROL_REGS`, VBR apart, which every chip has. -/
  implementedCtrl : List CtrlReg
  /-- `MBAR_UNIMPLEMENTED_BEHAVIOUR`. -/
  mbarUnimplemented : MbarBehaviour
  /-- Line-F words of `FLINE_DEFINED_SET` beyond those of WDDATA and WDEBUG (30_encoding R106). -/
  flineExtra : List Word
  /-- `TRAPF_OPMODE_MAP`. -/
  trapfMap : TrapfMap
  /-- `PULSE_WDDATA_PRIVILEGED`. -/
  pulseWddataPrivileged : Bool
  /-- `IRQ_CLEARS_M`. -/
  irqClearsM : Bool
  /-- `UNDEFINED_OPWORD_TRAPS`. -/
  undefinedOpwordTraps : Bool
  /-- `ADDRESS_ERROR_FS`; `none` is the default "unspecified", a free value. -/
  addressErrorFs : Option AddressErrorFs
deriving DecidableEq, Repr

/-- The defaults of 92_eei_decisions section 2. It gives none for
`MBAR_UNIMPLEMENTED_BEHAVIOUR`: DESIGN CHOICE, log 4. -/
def Config.default : Config where
  hasMisalign := false
  hasAutovector := false
  hasDebug := false
  implementedCtrl := []
  mbarUnimplemented := .accessError
  flineExtra := []
  trapfMap := { op2 := 0, op3 := 1, op4 := 2 }
  pulseWddataPrivileged := false
  irqClearsM := false
  undefinedOpwordTraps := false
  addressErrorFs := none

/-- A write whose bus cycle ended in an error that has not been reported yet
(20_memory R67, log 8). `fs` is its fault status, 1000 or 1001. -/
structure PendingWrite where
  addr : Long
  size : Size
  value : Long
  fs : BitVec 4
deriving DecidableEq, Repr

/-- The state of the core with which the machine enters the fault-on-fault halt: registers, memory
as a list of cells, and hidden state, all unspecified (60_exceptions R455, D31). -/
structure HaltedContents where
  d : Vector Long 8
  a : Vector Long 8
  pc : Long
  sr : Word
  vbr : BitVec 12
  ctrl : ControlRegs
  cells : List (Nat × Byte)
  tracePending : Bool
  irqInhibit : Bool
  prevIrqLevel : BitVec 3
  nmiLatched : Bool
  debugIrqPending : Bool
  writeBuffer : List PendingWrite
  stale : List (List (Nat × Byte))
deriving DecidableEq, Repr, Inhabited

/-- What the platform puts behind the addresses: how they answer, and what they hold as a list of
cells (46_system_control R365). -/
structure Platform where
  map : MemoryMap
  cells : List (Nat × Byte)
deriving DecidableEq, Repr, Inhabited

/-- FREE VALUE (log 11): FS[3:0] of an address-error frame (60_exceptions R421), per draw. -/
opaque Config.freeFs : Nat → BitVec 4

/-- FREE VALUE (log 12): which of the two candidates `MOVE An,-(An)` and `MOVE An,(An)+`
store (30_encoding R125), per draw; true is the value after the update. -/
opaque Config.freeUpdated : Nat → Bool

/-- FREE VALUE (log 10): how many of the stores since the last synchronising event a fetch
does not see yet (20_memory R81), per draw. -/
opaque Config.freeDepth : Nat → Nat

/-- FREE VALUE (log 14): the state on entry to the fault-on-fault halt, per draw. -/
opaque Config.freeHalted : Nat → HaltedContents

/-- FREE VALUE (log 16): the platform function `ctrl_write` of 46_system_control R365: memory's map
and contents after a write of this value to this implemented control register, from the control
registers, the map and the memory before it. -/
opaque Config.ctrlWrite : CtrlReg → Long → ControlRegs → MemoryMap → List (Nat × Byte) → Platform

end Sys2Proof
end

