-- ==== Sys2Proof/WellFormed.lean ====
section
/-! DEFINITION. Which terms of `Instr` are instructions: the addressing modes that each row of
spec/opcode_table.json admits, and operand values that fit their fields. -/

namespace Sys2Proof

/-- An immediate fits the operand size (30_encoding R123); every other mode does. -/
def Ea.fits (sz : Size) : Ea → Bool
  | .imm v =>
    match sz with
    | .byte => v.toNat < 256
    | .word => v.toNat < 65536
    | .long => true
  | _ => true

/-- Not An: the data addressing modes (30_encoding R124). -/
def Ea.isData : Ea → Bool
  | .an _ => false
  | _ => true

/-- The alterable modes (30_encoding R124). -/
def Ea.isAlterable : Ea → Bool
  | .pcDisp _ | .pcIndex _ | .imm _ => false
  | _ => true

/-- Alterable without An (30_encoding R124). -/
def Ea.isDataAlterable (ea : Ea) : Bool := ea.isData && ea.isAlterable

/-- Alterable without Dn and An (30_encoding R124). -/
def Ea.isMemoryAlterable : Ea → Bool
  | .dn _ => false
  | ea => ea.isDataAlterable

/-- The control modes (30_encoding R124). -/
def Ea.isControl : Ea → Bool
  | .ind _ | .disp _ _ | .index _ _ | .absW _ | .absL _ | .pcDisp _ | .pcIndex _ => true
  | _ => false

/-- The modes of the static bit instructions, MULS.L and MULU.L (44 R311, 41 R243). -/
def Ea.isShort : Ea → Bool
  | .dn _ | .ind _ | .postinc _ | .predec _ | .disp _ _ => true
  | _ => false

/-- The modes of MOVEM and WDEBUG (40 R207, 46 R371). -/
def Ea.isIndOrDisp : Ea → Bool
  | .ind _ | .disp _ _ => true
  | _ => false

/-- The sources of MOVE to CCR and MOVE to SR (46 R362, R364). -/
def Ea.isDnOrImm : Ea → Bool
  | .dn _ | .imm _ => true
  | _ => false

/-- Which destinations a MOVE or MOVEA source allows (40 R203). -/
def moveCombination (src dst : Ea) : Bool :=
  match src with
  | .dn _ | .an _ | .ind _ | .postinc _ | .predec _ => true
  | .disp _ _ | .pcDisp _ =>
    match dst with
    | .dn _ | .an _ | .ind _ | .postinc _ | .predec _ | .disp _ _ => true
    | _ => false
  | .index _ _ | .pcIndex _ | .absW _ | .absL _ | .imm _ =>
    match dst with
    | .dn _ | .an _ | .ind _ | .postinc _ | .predec _ => true
    | _ => false

/-- An 8-bit displacement of $00 selects the 16-bit form, so it is no byte displacement (45 R331). -/
def Disp.wf : Disp → Bool
  | .byte d8 => d8 != 0
  | .word _ => true

/-- The number of operand words of a TRAPF. -/
def TrapfOperand.count : TrapfOperand → Nat
  | .none => 0
  | .word _ => 1
  | .long _ => 2

/-- A WDDATA or WDEBUG row admits the line-F word with these low twelve bits (46 R370, R371). -/
def isDebugWord (x : BitVec 12) : Bool :=
  let mode := (x.toNat / 8) % 8
  let reg := x.toNat % 8
  x.toNat / 256 == 11 &&
    (if (x.toNat / 64) % 4 == 3 then mode == 2 || mode == 5
     else (2 ≤ mode && mode ≤ 6) || (mode == 7 && reg ≤ 1))

/-- The instruction is one that the opcode table admits, on a chip with these parameters. -/
def Instr.wf (cfg : Config) : Instr → Bool
  | .btstDyn _ ea => ea.isData && ea.fits .byte
  | .bchgDyn _ ea | .bclrDyn _ ea | .bsetDyn _ ea => ea.isDataAlterable
  | .btstImm _ ea | .bchgImm _ ea | .bclrImm _ ea | .bsetImm _ ea => ea.isShort
  | .moveB src dst =>
    src.isData && src.fits .byte && dst.isDataAlterable && moveCombination src dst
  | .moveW src dst => src.fits .word && dst.isDataAlterable && moveCombination src dst
  | .moveL src dst => dst.isDataAlterable && moveCombination src dst
  | .moveaW src _ => src.fits .word
  | .clrB ea | .clrW ea | .clrL ea => ea.isDataAlterable
  | .moveToCcr ea | .moveToSr ea => ea.isDnOrImm && ea.fits .word
  | .pea ea | .jsr ea | .jmp ea | .lea ea _ => ea.isControl
  | .movemStore _ ea | .movemLoad _ ea | .wdebug ea => ea.isIndOrDisp
  | .tstB ea => ea.isData && ea.fits .byte
  | .tstW ea => ea.fits .word
  | .muluL _ ea | .mulsL _ ea => ea.isShort
  | .addq _ ea | .subq _ ea => ea.isAlterable
  | .trapf o => o.count == cfg.trapfMap.op2.val
  | .trapfW o => o.count == cfg.trapfMap.op3.val
  | .trapfL o => o.count == cfg.trapfMap.op4.val
  | .bra d | .bsr d | .bhi d | .bls d | .bcc d | .bcs d | .bne d | .beq d | .bvc d | .bvs d
  | .bpl d | .bmi d | .bge d | .blt d | .bgt d | .ble d => d.wf
  | .orToDn _ ea | .andToDn _ ea => ea.isData
  | .orToEa _ ea | .andToEa _ ea | .addToEa _ ea | .subToEa _ ea => ea.isMemoryAlterable
  | .eor _ ea => ea.isDataAlterable
  | .muluW ea _ | .mulsW ea _ => ea.isData && ea.fits .word
  | .wddataB ea | .wddataW ea | .wddataL ea => ea.isMemoryAlterable
  | .lineF x => !isDebugWord x && !(cfg.flineExtra.contains (0xF#4 ++ x))
  | .ori _ _ | .andi _ _ | .subi _ _ | .addi _ _ | .eori _ _ | .cmpi _ _ => true
  | .moveaL _ _ | .tstL _ | .subToDn _ _ | .suba _ _ | .cmp _ _ | .cmpa _ _ | .addToDn _ _
  | .adda _ _ => true
  | .negx _ | .moveFromSr _ | .moveFromCcr _ | .neg _ | .not _ | .extW _ | .extL _ | .extbL _
  | .swap _ => true
  | .halt | .pulse | .illegal4AFC | .illegal0000 | .nop | .rte | .rts => true
  | .trap _ | .link _ _ | .unlk _ | .stop _ | .movec _ _ | .scc _ _ | .moveq _ _ => true
  | .subx _ _ | .addx _ _ => true
  | .asrImm _ _ | .asrReg _ _ | .aslImm _ _ | .aslReg _ _ | .lsrImm _ _ | .lsrReg _ _
  | .lslImm _ _ | .lslReg _ _ => true
  | .lineA _ => true

end Sys2Proof
end

