-- ==== Sys2Proof/Decode.lean ====
section
/-! DEFINITION. Instruction words: their length, the decoder (a search of the opcode table,
30_encoding R105), and the encoder. Words come in the order of 30_encoding R101: operation
word, own words, source words, destination words. -/

namespace Sys2Proof

/-- `bytes(sz)` of 00_scope R7. -/
def Size.bytes : Size → Nat
  | .byte => 1
  | .word => 2
  | .long => 4

/-- `ea_words(sz)` of 30_encoding R110. -/
def Ea.words (sz : Size) : Ea → Nat
  | .dn _ | .an _ | .ind _ | .postinc _ | .predec _ => 0
  | .disp _ _ | .index _ _ | .absW _ | .pcDisp _ | .pcIndex _ => 1
  | .absL _ => 2
  | .imm _ =>
    match sz with
    | .long => 2
    | _ => 1

/-- The words of a branch displacement: `own_words` of Bcc, BRA, BSR (30_encoding R103). -/
def Disp.words : Disp → Nat
  | .byte _ => 0
  | .word _ => 1

/-- The number of words after the operation word (30_encoding R103). -/
def Instr.extWords : Instr → Nat
  | .ori _ _ | .andi _ _ | .subi _ _ | .addi _ _ | .eori _ _ | .cmpi _ _ => 2
  | .btstDyn _ ea | .bchgDyn _ ea | .bclrDyn _ ea | .bsetDyn _ ea => ea.words .byte
  | .btstImm _ ea | .bchgImm _ ea | .bclrImm _ ea | .bsetImm _ ea => 1 + ea.words .byte
  | .moveB src dst => src.words .byte + dst.words .byte
  | .moveW src dst => src.words .word + dst.words .word
  | .moveL src dst => src.words .long + dst.words .long
  | .moveaW src _ => src.words .word
  | .moveaL src _ => src.words .long
  | .clrB ea | .tstB ea | .wddataB ea => ea.words .byte
  | .clrW ea | .tstW ea | .wddataW ea | .moveToCcr ea | .moveToSr ea => ea.words .word
  | .muluW ea _ | .mulsW ea _ => ea.words .word
  | .clrL ea | .tstL ea | .wddataL ea => ea.words .long
  | .pea ea | .jsr ea | .jmp ea | .lea ea _ => ea.words .long
  | .movemStore _ ea | .movemLoad _ ea | .muluL _ ea | .mulsL _ ea | .wdebug ea =>
    1 + ea.words .long
  | .addq _ ea | .subq _ ea => ea.words .long
  | .orToDn _ ea | .orToEa _ ea | .subToDn _ ea | .subToEa _ ea | .andToDn _ ea
  | .andToEa _ ea | .addToDn _ ea | .addToEa _ ea | .eor _ ea => ea.words .long
  | .suba ea _ | .cmp ea _ | .cmpa ea _ | .adda ea _ => ea.words .long
  | .link _ _ | .stop _ | .movec _ _ => 1
  | .trapf o | .trapfW o | .trapfL o => o.count
  | .bra d | .bsr d | .bhi d | .bls d | .bcc d | .bcs d | .bne d | .beq d | .bvc d | .bvs d
  | .bpl d | .bmi d | .bge d | .blt d | .bgt d | .ble d => d.words
  | .negx _ | .moveFromSr _ | .moveFromCcr _ | .neg _ | .not _ | .extW _ | .extL _ | .extbL _
  | .swap _ => 0
  | .halt | .pulse | .illegal4AFC | .illegal0000 | .nop | .rte | .rts => 0
  | .trap _ | .unlk _ | .scc _ _ | .moveq _ _ | .subx _ _ | .addx _ _ => 0
  | .asrImm _ _ | .asrReg _ _ | .aslImm _ _ | .aslReg _ _ | .lsrImm _ _ | .lsrReg _ _
  | .lslImm _ _ | .lslReg _ _ => 0
  | .lineA _ | .lineF _ => 0

/-- `ilen` of 30_encoding R103, in bytes. -/
def Instr.ilen (i : Instr) : Long := BitVec.ofNat 32 (2 + 2 * i.extWords)

/-! ## Fields of the operation word -/

/-- The modes of 30_encoding R110 as the operation word gives them. -/
inductive EaMode where
  | dn | an | ind | postinc | predec | disp | index | absW | absL | pcDisp | pcIndex | imm
deriving DecidableEq, Repr

/-- An effective address field: the mode and the register number. -/
structure EaField where
  mode : EaMode
  reg : RegNum
deriving DecidableEq, Repr

/-- The three bits of `w` from bit `lo` up, as a number. -/
def Word.field3 (w : Word) (lo : Nat) : Fin 8 := Fin.ofNat 8 (w.toNat / 2 ^ lo)

/-- The mode and register fields of 30_encoding R110; 111 with 101 to 111 is no mode. -/
def eaFieldOf (mode reg : Fin 8) : Option EaField :=
  match mode with
  | 0 => some ⟨.dn, reg⟩
  | 1 => some ⟨.an, reg⟩
  | 2 => some ⟨.ind, reg⟩
  | 3 => some ⟨.postinc, reg⟩
  | 4 => some ⟨.predec, reg⟩
  | 5 => some ⟨.disp, reg⟩
  | 6 => some ⟨.index, reg⟩
  | 7 =>
    match reg with
    | 0 => some ⟨.absW, reg⟩
    | 1 => some ⟨.absL, reg⟩
    | 2 => some ⟨.pcDisp, reg⟩
    | 3 => some ⟨.pcIndex, reg⟩
    | 4 => some ⟨.imm, reg⟩
    | _ => none

/-- The effective address of bits 5-0 (30_encoding R102). -/
def Word.srcField (w : Word) : Option EaField := eaFieldOf (w.field3 3) (w.field3 0)

/-- The destination of MOVE: mode in bits 8-6, register in bits 11-9 (30_encoding R102). -/
def Word.dstField (w : Word) : Option EaField := eaFieldOf (w.field3 6) (w.field3 9)

/-! ## The mode lists of the opcode table -/

def EaMode.isData : EaMode → Bool
  | .an => false
  | _ => true

def EaMode.isAlterable : EaMode → Bool
  | .pcDisp | .pcIndex | .imm => false
  | _ => true

def EaMode.isDataAlterable : EaMode → Bool
  | .an | .pcDisp | .pcIndex | .imm => false
  | _ => true

def EaMode.isMemoryAlterable : EaMode → Bool
  | .dn | .an | .pcDisp | .pcIndex | .imm => false
  | _ => true

def EaMode.isControl : EaMode → Bool
  | .ind | .disp | .index | .absW | .absL | .pcDisp | .pcIndex => true
  | _ => false

def EaMode.isShort : EaMode → Bool
  | .dn | .ind | .postinc | .predec | .disp => true
  | _ => false

def EaMode.isIndOrDisp : EaMode → Bool
  | .ind | .disp => true
  | _ => false

def EaMode.isDnOrImm : EaMode → Bool
  | .dn | .imm => true
  | _ => false

/-- The pairs of 40_data_movement R203. -/
def EaMode.combines (src dst : EaMode) : Bool :=
  match src with
  | .dn | .an | .ind | .postinc | .predec => true
  | .disp | .pcDisp =>
    match dst with
    | .dn | .an | .ind | .postinc | .predec | .disp => true
    | _ => false
  | .index | .pcIndex | .absW | .absL | .imm =>
    match dst with
    | .dn | .an | .ind | .postinc | .predec => true
    | _ => false

/-! ## Extension words -/

/-- The index extension word (30_encoding R115). -/
def IndexWord.ofWord (w : Word) : IndexWord where
  xn := if w.getLsbD 15 then .a (w.field3 12) else .d (w.field3 12)
  long := w.getLsbD 11
  scale := w.extractLsb' 9 2
  full := w.getLsbD 8
  d8 := w.extractLsb' 0 8

/-- The words of a field's mode, in front of `ws`, completed to an effective address
(30_encoding R110, R123); `none` if there are too few. -/
def EaField.complete (f : EaField) (sz : Size) (ws : List Word) : Option (Ea × List Word) :=
  match f.mode with
  | .dn => some (.dn f.reg, ws)
  | .an => some (.an f.reg, ws)
  | .ind => some (.ind f.reg, ws)
  | .postinc => some (.postinc f.reg, ws)
  | .predec => some (.predec f.reg, ws)
  | .disp =>
    match ws with
    | w :: ws => some (.disp f.reg w, ws)
    | _ => none
  | .index =>
    match ws with
    | w :: ws => some (.index f.reg (IndexWord.ofWord w), ws)
    | _ => none
  | .absW =>
    match ws with
    | w :: ws => some (.absW w, ws)
    | _ => none
  | .absL =>
    match ws with
    | h :: l :: ws => some (.absL (h ++ l), ws)
    | _ => none
  | .pcDisp =>
    match ws with
    | w :: ws => some (.pcDisp w, ws)
    | _ => none
  | .pcIndex =>
    match ws with
    | w :: ws => some (.pcIndex (IndexWord.ofWord w), ws)
    | _ => none
  | .imm =>
    match sz with
    | .byte =>
      match ws with
      | w :: ws => some (.imm ((w.extractLsb' 0 8).setWidth 32), ws)
      | _ => none
    | .word =>
      match ws with
      | w :: ws => some (.imm (w.setWidth 32), ws)
      | _ => none
    | .long =>
      match ws with
      | h :: l :: ws => some (.imm (h ++ l), ws)
      | _ => none

/-- The number of words that `EaField.complete` takes (30_encoding R110). -/
def EaField.words (f : EaField) (sz : Size) : Nat :=
  match f.mode with
  | .dn | .an | .ind | .postinc | .predec => 0
  | .disp | .index | .absW | .pcDisp | .pcIndex => 1
  | .absL => 2
  | .imm =>
    match sz with
    | .long => 2
    | _ => 1

/-! ## Rows -/

/-- Why words are no instruction. -/
inductive Reject where
  /-- No row of the table admits the operation word (30_encoding R106). -/
  | undefinedOpword (w : Word)
  /-- A reserved bit of an own extension word is wrong (30_encoding R107). -/
  | reservedExtension (w : Word)
  /-- The same in a privileged instruction, whose privilege is checked before the word is
  (30_encoding R105 (4), 46_system_control R360). -/
  | reservedPrivileged (w : Word)
  /-- A line-F word that the chip defines and the spec does not (30_encoding R106). -/
  | lineFElsewhere (w : Word)
  /-- Fewer words than the operation word asks for. -/
  | truncated
deriving DecidableEq, Repr

/-- What the operation word leaves to its extension words. -/
inductive Form where
  /-- The operation word is the whole instruction. -/
  | done (i : Instr)
  /-- One own word. -/
  | word (k : Word → Instr)
  /-- Two own words, the high-order one first. -/
  | long (k : Long → Instr)
  /-- The words of one effective address. -/
  | ea (sz : Size) (f : EaField) (k : Ea → Instr)
  /-- One own word, then the words of an effective address. -/
  | wordEa (f : EaField) (k : Word → Ea → Except Reject Instr)
  /-- The words of a source, then those of a destination. -/
  | move (sz : Size) (src dst : EaField) (k : Ea → Ea → Instr)

/-- The number of extension words: the operation word alone decides it (30_encoding R103). -/
def Form.words : Form → Nat
  | .done _ => 0
  | .word _ => 1
  | .long _ => 2
  | .ea sz f _ => f.words sz
  | .wordEa f _ => 1 + f.words .long
  | .move sz src dst _ => src.words sz + dst.words sz

/-- The instruction and the words after it. -/
def Form.complete (form : Form) (ws : List Word) : Except Reject (Instr × List Word) :=
  match form with
  | .done i => .ok (i, ws)
  | .word k =>
    match ws with
    | w :: ws => .ok (k w, ws)
    | _ => .error .truncated
  | .long k =>
    match ws with
    | h :: l :: ws => .ok (k (h ++ l), ws)
    | _ => .error .truncated
  | .ea sz f k =>
    match f.complete sz ws with
    | some (e, ws) => .ok (k e, ws)
    | none => .error .truncated
  | .wordEa f k =>
    match ws with
    | w :: ws =>
      match f.complete .long ws with
      | some (e, ws) =>
        match k w e with
        | .ok i => .ok (i, ws)
        | .error r => .error r
      | none => .error .truncated
    | _ => .error .truncated
  | .move sz src dst k =>
    match src.complete sz ws with
    | some (s, ws) =>
      match dst.complete sz ws with
      | some (d, ws) => .ok (k s d, ws)
      | none => .error .truncated
    | none => .error .truncated

/-- A row of the opcode table: the words `w` with `w & mask = bits` that `build` admits. -/
structure Row where
  mask : Word
  bits : Word
  build : Config → Word → Option Form

/-- A row without an effective address field. -/
def Row.plain (mask bits : Word) (k : Word → Form) : Row := ⟨mask, bits, fun _ w => some (k w)⟩

/-- A row whose bits 5-0 are an effective address in one of the `allowed` modes. -/
def Row.ofEa (mask bits : Word) (sz : Size) (allowed : EaMode → Bool)
    (k : Word → Ea → Instr) : Row :=
  ⟨mask, bits, fun _ w =>
    match w.srcField with
    | some f => if allowed f.mode then some (.ea sz f (k w)) else none
    | none => none⟩

/-- The same with an own word before the words of the effective address. -/
def Row.ofWordEa (mask bits : Word) (allowed : EaMode → Bool)
    (k : Word → Ea → Except Reject Instr) : Row :=
  ⟨mask, bits, fun _ w =>
    match w.srcField with
    | some f => if allowed f.mode then some (.wordEa f k) else none
    | none => none⟩

/-- A row of MOVE: `allowed` restricts the source, the destination is data alterable, and the
pair is one of 40_data_movement R203. -/
def Row.ofMove (bits : Word) (sz : Size) (allowed : EaMode → Bool) (k : Ea → Ea → Instr) : Row :=
  ⟨0xF000, bits, fun _ w =>
    match w.srcField, w.dstField with
    | some s, some d =>
      if allowed s.mode && d.mode.isDataAlterable && s.mode.combines d.mode then
        some (.move sz s d k)
      else none
    | _, _ => none⟩

/-- A row of Bcc, BRA or BSR (45_program_control R331). -/
def Row.ofBranch (bits : Word) (k : Disp → Instr) : Row :=
  ⟨0xFF00, bits, fun _ w =>
    if w.extractLsb' 0 8 = 0 then some (.word fun d => k (.word d))
    else some (.done (k (.byte (w.extractLsb' 0 8))))⟩

/-- A row of TRAPF; the chip's map says how many operand words follow (45_program_control R341). -/
def Row.ofTrapf (bits : Word) (count : TrapfMap → Fin 3) (k : TrapfOperand → Instr) : Row :=
  ⟨0xFFFF, bits, fun cfg _ =>
    match count cfg.trapfMap with
    | 0 => some (.done (k .none))
    | 1 => some (.word fun v => k (.word v))
    | 2 => some (.long fun v => k (.long v))⟩

/-- The low byte of the bit-number word; the high byte is ignored (44_bit_manipulation R310). -/
def bitNumber (w : Word) : Byte := w.extractLsb' 0 8

/-- MULU.L and MULS.L share their operation word; bit 11 of the own word tells them apart, and
any other set bit but the register's is refused (41_integer_arithmetic R243, R245). -/
def mulLong (w : Word) (ea : Ea) : Except Reject Instr :=
  if w &&& 0x8FFF = 0 then .ok (.muluL (w.field3 12) ea)
  else if w &&& 0x8FFF = 0x0800 then .ok (.mulsL (w.field3 12) ea)
  else .error (.reservedExtension w)

/-- The second word of WDEBUG is $0003 (46_system_control R371). -/
def wdebugOf (w : Word) (ea : Ea) : Except Reject Instr :=
  if w = 3 then .ok (.wdebug ea) else .error (.reservedPrivileged w)

/-- The general register and the code of MOVEC's second word (46_system_control R365). -/
def movecOf (w : Word) : Instr :=
  .movec (if w.getLsbD 15 then .a (w.field3 12) else .d (w.field3 12)) (w.extractLsb' 0 12)

/-- The condition with this 4-bit code (10_state R33). -/
def Cond.ofCode (c : Nat) : Cond :=
  match c % 16 with
  | 0 => .t | 1 => .f | 2 => .hi | 3 => .ls | 4 => .cc | 5 => .cs | 6 => .ne | 7 => .eq
  | 8 => .vc | 9 => .vs | 10 => .pl | 11 => .mi | 12 => .ge | 13 => .lt | 14 => .gt | _ => .le

/-- Every mode. -/
def anyMode (_ : EaMode) : Bool := true

/-- Line 0: bit manipulation and immediate. -/
def rows0 : List Row := [
  .plain 0xFFF8 0x0080 fun w => .long (.ori (w.field3 0)),
  .plain 0xFFF8 0x0280 fun w => .long (.andi (w.field3 0)),
  .plain 0xFFF8 0x0480 fun w => .long (.subi (w.field3 0)),
  .plain 0xFFF8 0x0680 fun w => .long (.addi (w.field3 0)),
  .plain 0xFFF8 0x0A80 fun w => .long (.eori (w.field3 0)),
  .plain 0xFFF8 0x0C80 fun w => .long (.cmpi (w.field3 0)),
  .ofEa 0xF1C0 0x0100 .byte EaMode.isData fun w => .btstDyn (w.field3 9),
  .ofWordEa 0xFFC0 0x0800 EaMode.isShort fun b ea => .ok (.btstImm (bitNumber b) ea),
  .ofEa 0xF1C0 0x0140 .byte EaMode.isDataAlterable fun w => .bchgDyn (w.field3 9),
  .ofWordEa 0xFFC0 0x0840 EaMode.isShort fun b ea => .ok (.bchgImm (bitNumber b) ea),
  .ofEa 0xF1C0 0x0180 .byte EaMode.isDataAlterable fun w => .bclrDyn (w.field3 9),
  .ofWordEa 0xFFC0 0x0880 EaMode.isShort fun b ea => .ok (.bclrImm (bitNumber b) ea),
  .ofEa 0xF1C0 0x01C0 .byte EaMode.isDataAlterable fun w => .bsetDyn (w.field3 9),
  .ofWordEa 0xFFC0 0x08C0 EaMode.isShort fun b ea => .ok (.bsetImm (bitNumber b) ea)]

/-- Line 1: MOVE.B. -/
def rows1 : List Row := [.ofMove 0x1000 .byte EaMode.isData .moveB]

/-- Line 3: MOVE.W and MOVEA.W. -/
def rows3 : List Row := [
  .ofMove 0x3000 .word anyMode .moveW,
  .ofEa 0xF1C0 0x3040 .word anyMode fun w ea => .moveaW ea (w.field3 9)]

/-- Line 2: MOVE.L and MOVEA.L. -/
def rows2 : List Row := [
  .ofMove 0x2000 .long anyMode .moveL,
  .ofEa 0xF1C0 0x2040 .long anyMode fun w ea => .moveaL ea (w.field3 9)]

/-- Line 4: miscellaneous. -/
def rows4 : List Row := [
  .plain 0xFFF8 0x4080 fun w => .done (.negx (w.field3 0)),
  .plain 0xFFF8 0x40C0 fun w => .done (.moveFromSr (w.field3 0)),
  .ofEa 0xFFC0 0x4200 .byte EaMode.isDataAlterable fun _ => .clrB,
  .ofEa 0xFFC0 0x4240 .word EaMode.isDataAlterable fun _ => .clrW,
  .ofEa 0xFFC0 0x4280 .long EaMode.isDataAlterable fun _ => .clrL,
  .plain 0xFFF8 0x42C0 fun w => .done (.moveFromCcr (w.field3 0)),
  .plain 0xFFF8 0x4480 fun w => .done (.neg (w.field3 0)),
  .ofEa 0xFFC0 0x44C0 .word EaMode.isDnOrImm fun _ => .moveToCcr,
  .plain 0xFFF8 0x4680 fun w => .done (.not (w.field3 0)),
  .ofEa 0xFFC0 0x46C0 .word EaMode.isDnOrImm fun _ => .moveToSr,
  .plain 0xFFF8 0x4880 fun w => .done (.extW (w.field3 0)),
  .plain 0xFFF8 0x48C0 fun w => .done (.extL (w.field3 0)),
  .plain 0xFFF8 0x49C0 fun w => .done (.extbL (w.field3 0)),
  .plain 0xFFF8 0x4840 fun w => .done (.swap (w.field3 0)),
  .ofEa 0xFFC0 0x4840 .long EaMode.isControl fun _ => .pea,
  .ofWordEa 0xFFC0 0x48C0 EaMode.isIndOrDisp fun m ea => .ok (.movemStore m ea),
  .ofWordEa 0xFFC0 0x4CC0 EaMode.isIndOrDisp fun m ea => .ok (.movemLoad m ea),
  .ofEa 0xFFC0 0x4A00 .byte EaMode.isData fun _ => .tstB,
  .ofEa 0xFFC0 0x4A40 .word anyMode fun _ => .tstW,
  .ofEa 0xFFC0 0x4A80 .long anyMode fun _ => .tstL,
  .plain 0xFFFF 0x4AC8 fun _ => .done .halt,
  .plain 0xFFFF 0x4ACC fun _ => .done .pulse,
  .ofWordEa 0xFFC0 0x4C00 EaMode.isShort mulLong,
  .plain 0xFFF0 0x4E40 fun w => .done (.trap (w.extractLsb' 0 4)),
  .plain 0xFFF8 0x4E50 fun w => .word (.link (w.field3 0)),
  .plain 0xFFF8 0x4E58 fun w => .done (.unlk (w.field3 0)),
  .plain 0xFFFF 0x4E71 fun _ => .done .nop,
  .plain 0xFFFF 0x4E72 fun _ => .word .stop,
  .plain 0xFFFF 0x4E73 fun _ => .done .rte,
  .plain 0xFFFF 0x4E75 fun _ => .done .rts,
  .plain 0xFFFF 0x4E7B fun _ => .word movecOf,
  .ofEa 0xFFC0 0x4E80 .long EaMode.isControl fun _ => .jsr,
  .ofEa 0xFFC0 0x4EC0 .long EaMode.isControl fun _ => .jmp,
  .ofEa 0xF1C0 0x41C0 .long EaMode.isControl fun w ea => .lea ea (w.field3 9)]

/-- Line 5: ADDQ, SUBQ, Scc, TRAPF. -/
def rows5 : List Row := [
  .ofEa 0xF1C0 0x5080 .long EaMode.isAlterable fun w => .addq (w.extractLsb' 9 3),
  .ofEa 0xF1C0 0x5180 .long EaMode.isAlterable fun w => .subq (w.extractLsb' 9 3),
  .plain 0xF0F8 0x50C0 fun w => .done (.scc (.ofCode (w.toNat / 256)) (w.field3 0)),
  .ofTrapf 0x51FA TrapfMap.op2 .trapf,
  .ofTrapf 0x51FB TrapfMap.op3 .trapfW,
  .ofTrapf 0x51FC TrapfMap.op4 .trapfL]

/-- Line 6: BRA, BSR, Bcc. -/
def rows6 : List Row := [
  .ofBranch 0x6000 .bra, .ofBranch 0x6100 .bsr, .ofBranch 0x6200 .bhi, .ofBranch 0x6300 .bls,
  .ofBranch 0x6400 .bcc, .ofBranch 0x6500 .bcs, .ofBranch 0x6600 .bne, .ofBranch 0x6700 .beq,
  .ofBranch 0x6800 .bvc, .ofBranch 0x6900 .bvs, .ofBranch 0x6A00 .bpl, .ofBranch 0x6B00 .bmi,
  .ofBranch 0x6C00 .bge, .ofBranch 0x6D00 .blt, .ofBranch 0x6E00 .bgt, .ofBranch 0x6F00 .ble]

/-- Line 7: MOVEQ. -/
def rows7 : List Row := [
  .plain 0xF100 0x7000 fun w => .done (.moveq (w.extractLsb' 0 8) (w.field3 9))]

/-- Line 8: OR. -/
def rows8 : List Row := [
  .ofEa 0xF1C0 0x8080 .long EaMode.isData fun w => .orToDn (w.field3 9),
  .ofEa 0xF1C0 0x8180 .long EaMode.isMemoryAlterable fun w => .orToEa (w.field3 9)]

/-- Line 9: SUB, SUBA, SUBX. -/
def rows9 : List Row := [
  .ofEa 0xF1C0 0x9080 .long anyMode fun w => .subToDn (w.field3 9),
  .ofEa 0xF1C0 0x9180 .long EaMode.isMemoryAlterable fun w => .subToEa (w.field3 9),
  .ofEa 0xF1C0 0x91C0 .long anyMode fun w ea => .suba ea (w.field3 9),
  .plain 0xF1F8 0x9180 fun w => .done (.subx (w.field3 0) (w.field3 9))]

/-- Line B: CMP, CMPA, EOR. -/
def rowsB : List Row := [
  .ofEa 0xF1C0 0xB080 .long anyMode fun w ea => .cmp ea (w.field3 9),
  .ofEa 0xF1C0 0xB1C0 .long anyMode fun w ea => .cmpa ea (w.field3 9),
  .ofEa 0xF1C0 0xB180 .long EaMode.isDataAlterable fun w => .eor (w.field3 9)]

/-- Line C: AND, MULU.W, MULS.W. -/
def rowsC : List Row := [
  .ofEa 0xF1C0 0xC080 .long EaMode.isData fun w => .andToDn (w.field3 9),
  .ofEa 0xF1C0 0xC180 .long EaMode.isMemoryAlterable fun w => .andToEa (w.field3 9),
  .ofEa 0xF1C0 0xC0C0 .word EaMode.isData fun w ea => .muluW ea (w.field3 9),
  .ofEa 0xF1C0 0xC1C0 .word EaMode.isData fun w ea => .mulsW ea (w.field3 9)]

/-- Line D: ADD, ADDA, ADDX. -/
def rowsD : List Row := [
  .ofEa 0xF1C0 0xD080 .long anyMode fun w => .addToDn (w.field3 9),
  .ofEa 0xF1C0 0xD180 .long EaMode.isMemoryAlterable fun w => .addToEa (w.field3 9),
  .ofEa 0xF1C0 0xD1C0 .long anyMode fun w ea => .adda ea (w.field3 9),
  .plain 0xF1F8 0xD180 fun w => .done (.addx (w.field3 0) (w.field3 9))]

/-- Line E: the shifts. -/
def rowsE : List Row := [
  .plain 0xF1F8 0xE080 fun w => .done (.asrImm (w.extractLsb' 9 3) (w.field3 0)),
  .plain 0xF1F8 0xE0A0 fun w => .done (.asrReg (w.field3 9) (w.field3 0)),
  .plain 0xF1F8 0xE180 fun w => .done (.aslImm (w.extractLsb' 9 3) (w.field3 0)),
  .plain 0xF1F8 0xE1A0 fun w => .done (.aslReg (w.field3 9) (w.field3 0)),
  .plain 0xF1F8 0xE088 fun w => .done (.lsrImm (w.extractLsb' 9 3) (w.field3 0)),
  .plain 0xF1F8 0xE0A8 fun w => .done (.lsrReg (w.field3 9) (w.field3 0)),
  .plain 0xF1F8 0xE188 fun w => .done (.lslImm (w.extractLsb' 9 3) (w.field3 0)),
  .plain 0xF1F8 0xE1A8 fun w => .done (.lslReg (w.field3 9) (w.field3 0))]

/-- Line F: WDDATA and WDEBUG; the fallback row LINE_F is in `decodeOp`. -/
def rowsF : List Row := [
  .ofEa 0xFFC0 0xFB00 .byte EaMode.isMemoryAlterable fun _ => .wddataB,
  .ofEa 0xFFC0 0xFB40 .word EaMode.isMemoryAlterable fun _ => .wddataW,
  .ofEa 0xFFC0 0xFB80 .long EaMode.isMemoryAlterable fun _ => .wddataL,
  .ofWordEa 0xFFC0 0xFBC0 EaMode.isIndOrDisp wdebugOf]

/-- The rows of a line (30_encoding R104). -/
def rowsOf (line : Nat) : List Row :=
  match line with
  | 0 => rows0
  | 1 => rows1
  | 2 => rows2
  | 3 => rows3
  | 4 => rows4
  | 5 => rows5
  | 6 => rows6
  | 7 => rows7
  | 8 => rows8
  | 9 => rows9
  | 11 => rowsB
  | 12 => rowsC
  | 13 => rowsD
  | 14 => rowsE
  | 15 => rowsF
  | _ => []

/-- What the first row that admits `w` makes of it. -/
def searchRows (cfg : Config) (w : Word) : List Row → Option Form
  | [] => none
  | row :: rows =>
    if w &&& row.mask = row.bits then
      match row.build cfg w with
      | some form => some form
      | none => searchRows cfg w rows
    else searchRows cfg w rows

/-- Steps (1) to (3), (5) and (6) of 30_encoding R105, on the operation word alone. -/
def decodeOp (cfg : Config) (w : Word) : Except Reject Form :=
  if w = 0 then .ok (.done .illegal0000)
  else if w = 0x4AFC then .ok (.done .illegal4AFC)
  else
    let line := w.toNat / 4096
    if line = 10 then .ok (.done (.lineA (w.extractLsb' 0 12)))
    else
      match searchRows cfg w (rowsOf line) with
      | some form => .ok form
      | none =>
        if line = 15 then
          if cfg.flineExtra.contains w then .error (.lineFElsewhere w)
          else .ok (.done (.lineF (w.extractLsb' 0 12)))
        else .error (.undefinedOpword w)

/-- The instruction in front of a list of words, and the words after it. -/
def decodeWords (cfg : Config) : List Word → Except Reject (Instr × List Word)
  | [] => .error .truncated
  | w :: ws =>
    match decodeOp cfg w with
    | .error r => .error r
    | .ok form => form.complete ws

/-- Words from bytes in memory order, the high byte of each first (20_memory R61, R63); a last
odd byte makes no word. -/
def wordsOfBytes : List Byte → List Word
  | h :: l :: bs => (h ++ l) :: wordsOfBytes bs
  | _ => []

/-- The decoder on any bytes. -/
def decodeBytes (cfg : Config) (bs : List Byte) : Except Reject (Instr × List Word) :=
  decodeWords cfg (wordsOfBytes bs)

/-! ## The encoder -/

/-- The code of a condition (10_state R33). -/
def Cond.code : Cond → Nat
  | .t => 0 | .f => 1 | .hi => 2 | .ls => 3 | .cc => 4 | .cs => 5 | .ne => 6 | .eq => 7
  | .vc => 8 | .vs => 9 | .pl => 10 | .mi => 11 | .ge => 12 | .lt => 13 | .gt => 14 | .le => 15

/-- The mode number of an effective address (30_encoding R110). -/
def Ea.modeBits : Ea → Nat
  | .dn _ => 0
  | .an _ => 1
  | .ind _ => 2
  | .postinc _ => 3
  | .predec _ => 4
  | .disp _ _ => 5
  | .index _ _ => 6
  | .absW _ | .absL _ | .pcDisp _ | .pcIndex _ | .imm _ => 7

/-- The register field of an effective address (30_encoding R110). -/
def Ea.regBits : Ea → Nat
  | .dn n | .an n | .ind n | .postinc n | .predec n | .disp n _ | .index n _ => n.val
  | .absW _ => 0
  | .absL _ => 1
  | .pcDisp _ => 2
  | .pcIndex _ => 3
  | .imm _ => 4

/-- Bits 5-0: mode, then register. -/
def Ea.srcBits (ea : Ea) : Nat := ea.modeBits * 8 + ea.regBits

/-- Bits 11-6 of MOVE: register, then mode. -/
def Ea.dstBits (ea : Ea) : Nat := ea.regBits * 512 + ea.modeBits * 64

/-- The 4-bit number of a general register, A registers from 8 up (00_scope R8). -/
def Reg.code : Reg → Nat
  | .d n => n.val
  | .a n => 8 + n.val

/-- A single bit as a number. -/
def bit (b : Bool) : Nat := if b then 1 else 0

/-- The index extension word (30_encoding R115). -/
def IndexWord.toWord (w : IndexWord) : Word :=
  BitVec.ofNat 16 (w.xn.code * 4096 + bit w.long * 2048 + w.scale.toNat * 512
    + bit w.full * 256 + w.d8.toNat)

/-- The high-order word of a long word. -/
def Long.hi (v : Long) : Word := v.extractLsb' 16 16

/-- The low-order word of a long word. -/
def Long.lo (v : Long) : Word := v.extractLsb' 0 16

/-- The extension words of an effective address (30_encoding R110, R123). -/
def Ea.encode (sz : Size) : Ea → List Word
  | .dn _ | .an _ | .ind _ | .postinc _ | .predec _ => []
  | .disp _ d => [d]
  | .index _ w => [w.toWord]
  | .absW a => [a]
  | .absL a => [Long.hi a, Long.lo a]
  | .pcDisp d => [d]
  | .pcIndex w => [w.toWord]
  | .imm v =>
    match sz with
    | .long => [Long.hi v, Long.lo v]
    | _ => [Long.lo v]

/-- The 8-bit displacement field of a branch: $00 for the 16-bit form. -/
def Disp.bits : Disp → Nat
  | .byte d => d.toNat
  | .word _ => 0

/-- The displacement word of a branch. -/
def Disp.encode : Disp → List Word
  | .byte _ => []
  | .word d => [d]

/-- The operand words of TRAPF. -/
def TrapfOperand.encode : TrapfOperand → List Word
  | .none => []
  | .word v => [v]
  | .long v => [Long.hi v, Long.lo v]

/-- An operation word: its fixed bits plus fields that do not overlap them. -/
def opword (bits : Nat) : Word := BitVec.ofNat 16 bits

/-- The operation word. -/
def Instr.op : Instr → Word
  | .ori n _ => opword (0x0080 + n.val)
  | .andi n _ => opword (0x0280 + n.val)
  | .subi n _ => opword (0x0480 + n.val)
  | .addi n _ => opword (0x0680 + n.val)
  | .eori n _ => opword (0x0A80 + n.val)
  | .cmpi n _ => opword (0x0C80 + n.val)
  | .btstDyn r ea => opword (0x0100 + r.val * 512 + ea.srcBits)
  | .btstImm _ ea => opword (0x0800 + ea.srcBits)
  | .bchgDyn r ea => opword (0x0140 + r.val * 512 + ea.srcBits)
  | .bchgImm _ ea => opword (0x0840 + ea.srcBits)
  | .bclrDyn r ea => opword (0x0180 + r.val * 512 + ea.srcBits)
  | .bclrImm _ ea => opword (0x0880 + ea.srcBits)
  | .bsetDyn r ea => opword (0x01C0 + r.val * 512 + ea.srcBits)
  | .bsetImm _ ea => opword (0x08C0 + ea.srcBits)
  | .moveB src dst => opword (0x1000 + dst.dstBits + src.srcBits)
  | .moveW src dst => opword (0x3000 + dst.dstBits + src.srcBits)
  | .moveL src dst => opword (0x2000 + dst.dstBits + src.srcBits)
  | .moveaW src n => opword (0x3040 + n.val * 512 + src.srcBits)
  | .moveaL src n => opword (0x2040 + n.val * 512 + src.srcBits)
  | .negx n => opword (0x4080 + n.val)
  | .moveFromSr n => opword (0x40C0 + n.val)
  | .clrB ea => opword (0x4200 + ea.srcBits)
  | .clrW ea => opword (0x4240 + ea.srcBits)
  | .clrL ea => opword (0x4280 + ea.srcBits)
  | .moveFromCcr n => opword (0x42C0 + n.val)
  | .neg n => opword (0x4480 + n.val)
  | .moveToCcr ea => opword (0x44C0 + ea.srcBits)
  | .not n => opword (0x4680 + n.val)
  | .moveToSr ea => opword (0x46C0 + ea.srcBits)
  | .extW n => opword (0x4880 + n.val)
  | .extL n => opword (0x48C0 + n.val)
  | .extbL n => opword (0x49C0 + n.val)
  | .swap n => opword (0x4840 + n.val)
  | .pea ea => opword (0x4840 + ea.srcBits)
  | .movemStore _ ea => opword (0x48C0 + ea.srcBits)
  | .movemLoad _ ea => opword (0x4CC0 + ea.srcBits)
  | .tstB ea => opword (0x4A00 + ea.srcBits)
  | .tstW ea => opword (0x4A40 + ea.srcBits)
  | .tstL ea => opword (0x4A80 + ea.srcBits)
  | .halt => opword 0x4AC8
  | .pulse => opword 0x4ACC
  | .illegal4AFC => opword 0x4AFC
  | .muluL _ ea => opword (0x4C00 + ea.srcBits)
  | .mulsL _ ea => opword (0x4C00 + ea.srcBits)
  | .trap v => opword (0x4E40 + v.toNat)
  | .link n _ => opword (0x4E50 + n.val)
  | .unlk n => opword (0x4E58 + n.val)
  | .nop => opword 0x4E71
  | .stop _ => opword 0x4E72
  | .rte => opword 0x4E73
  | .rts => opword 0x4E75
  | .movec _ _ => opword 0x4E7B
  | .jsr ea => opword (0x4E80 + ea.srcBits)
  | .jmp ea => opword (0x4EC0 + ea.srcBits)
  | .lea ea n => opword (0x41C0 + n.val * 512 + ea.srcBits)
  | .addq q ea => opword (0x5080 + q.toNat * 512 + ea.srcBits)
  | .subq q ea => opword (0x5180 + q.toNat * 512 + ea.srcBits)
  | .scc c n => opword (0x50C0 + c.code * 256 + n.val)
  | .trapf _ => opword 0x51FA
  | .trapfW _ => opword 0x51FB
  | .trapfL _ => opword 0x51FC
  | .bra d => opword (0x6000 + d.bits)
  | .bsr d => opword (0x6100 + d.bits)
  | .bhi d => opword (0x6200 + d.bits)
  | .bls d => opword (0x6300 + d.bits)
  | .bcc d => opword (0x6400 + d.bits)
  | .bcs d => opword (0x6500 + d.bits)
  | .bne d => opword (0x6600 + d.bits)
  | .beq d => opword (0x6700 + d.bits)
  | .bvc d => opword (0x6800 + d.bits)
  | .bvs d => opword (0x6900 + d.bits)
  | .bpl d => opword (0x6A00 + d.bits)
  | .bmi d => opword (0x6B00 + d.bits)
  | .bge d => opword (0x6C00 + d.bits)
  | .blt d => opword (0x6D00 + d.bits)
  | .bgt d => opword (0x6E00 + d.bits)
  | .ble d => opword (0x6F00 + d.bits)
  | .moveq v n => opword (0x7000 + n.val * 512 + v.toNat)
  | .orToDn n ea => opword (0x8080 + n.val * 512 + ea.srcBits)
  | .orToEa n ea => opword (0x8180 + n.val * 512 + ea.srcBits)
  | .subToDn n ea => opword (0x9080 + n.val * 512 + ea.srcBits)
  | .subToEa n ea => opword (0x9180 + n.val * 512 + ea.srcBits)
  | .suba ea n => opword (0x91C0 + n.val * 512 + ea.srcBits)
  | .subx src dst => opword (0x9180 + dst.val * 512 + src.val)
  | .cmp ea n => opword (0xB080 + n.val * 512 + ea.srcBits)
  | .cmpa ea n => opword (0xB1C0 + n.val * 512 + ea.srcBits)
  | .eor n ea => opword (0xB180 + n.val * 512 + ea.srcBits)
  | .andToDn n ea => opword (0xC080 + n.val * 512 + ea.srcBits)
  | .andToEa n ea => opword (0xC180 + n.val * 512 + ea.srcBits)
  | .muluW ea n => opword (0xC0C0 + n.val * 512 + ea.srcBits)
  | .mulsW ea n => opword (0xC1C0 + n.val * 512 + ea.srcBits)
  | .addToDn n ea => opword (0xD080 + n.val * 512 + ea.srcBits)
  | .addToEa n ea => opword (0xD180 + n.val * 512 + ea.srcBits)
  | .adda ea n => opword (0xD1C0 + n.val * 512 + ea.srcBits)
  | .addx src dst => opword (0xD180 + dst.val * 512 + src.val)
  | .asrImm q n => opword (0xE080 + q.toNat * 512 + n.val)
  | .asrReg c n => opword (0xE0A0 + c.val * 512 + n.val)
  | .aslImm q n => opword (0xE180 + q.toNat * 512 + n.val)
  | .aslReg c n => opword (0xE1A0 + c.val * 512 + n.val)
  | .lsrImm q n => opword (0xE088 + q.toNat * 512 + n.val)
  | .lsrReg c n => opword (0xE0A8 + c.val * 512 + n.val)
  | .lslImm q n => opword (0xE188 + q.toNat * 512 + n.val)
  | .lslReg c n => opword (0xE1A8 + c.val * 512 + n.val)
  | .wddataB ea => opword (0xFB00 + ea.srcBits)
  | .wddataW ea => opword (0xFB40 + ea.srcBits)
  | .wddataL ea => opword (0xFB80 + ea.srcBits)
  | .wdebug ea => opword (0xFBC0 + ea.srcBits)
  | .illegal0000 => opword 0
  | .lineA x => opword (0xA000 + x.toNat)
  | .lineF x => opword (0xF000 + x.toNat)

/-- The words after the operation word (30_encoding R101). -/
def Instr.ext : Instr → List Word
  | .ori _ v | .andi _ v | .subi _ v | .addi _ v | .eori _ v | .cmpi _ v => [Long.hi v, Long.lo v]
  | .btstDyn _ ea | .bchgDyn _ ea | .bclrDyn _ ea | .bsetDyn _ ea => ea.encode .byte
  | .btstImm b ea | .bchgImm b ea | .bclrImm b ea | .bsetImm b ea =>
    b.setWidth 16 :: ea.encode .byte
  | .moveB src dst => src.encode .byte ++ dst.encode .byte
  | .moveW src dst => src.encode .word ++ dst.encode .word
  | .moveL src dst => src.encode .long ++ dst.encode .long
  | .moveaW src _ => src.encode .word
  | .moveaL src _ => src.encode .long
  | .clrB ea | .tstB ea | .wddataB ea => ea.encode .byte
  | .clrW ea | .tstW ea | .wddataW ea | .moveToCcr ea | .moveToSr ea => ea.encode .word
  | .muluW ea _ | .mulsW ea _ => ea.encode .word
  | .clrL ea | .tstL ea | .wddataL ea => ea.encode .long
  | .pea ea | .jsr ea | .jmp ea | .lea ea _ => ea.encode .long
  | .movemStore m ea | .movemLoad m ea => m :: ea.encode .long
  | .muluL n ea => BitVec.ofNat 16 (n.val * 4096) :: ea.encode .long
  | .mulsL n ea => BitVec.ofNat 16 (n.val * 4096 + 0x0800) :: ea.encode .long
  | .wdebug ea => 3 :: ea.encode .long
  | .addq _ ea | .subq _ ea => ea.encode .long
  | .orToDn _ ea | .orToEa _ ea | .subToDn _ ea | .subToEa _ ea | .andToDn _ ea
  | .andToEa _ ea | .addToDn _ ea | .addToEa _ ea | .eor _ ea => ea.encode .long
  | .suba ea _ | .cmp ea _ | .cmpa ea _ | .adda ea _ => ea.encode .long
  | .link _ d => [d]
  | .stop v => [v]
  | .movec r rc => [BitVec.ofNat 16 (r.code * 4096 + rc.toNat)]
  | .trapf o | .trapfW o | .trapfL o => o.encode
  | .bra d | .bsr d | .bhi d | .bls d | .bcc d | .bcs d | .bne d | .beq d | .bvc d | .bvs d
  | .bpl d | .bmi d | .bge d | .blt d | .bgt d | .ble d => d.encode
  | .negx _ | .moveFromSr _ | .moveFromCcr _ | .neg _ | .not _ | .extW _ | .extL _ | .extbL _
  | .swap _ => []
  | .halt | .pulse | .illegal4AFC | .illegal0000 | .nop | .rte | .rts => []
  | .trap _ | .unlk _ | .scc _ _ | .moveq _ _ | .subx _ _ | .addx _ _ => []
  | .asrImm _ _ | .asrReg _ _ | .aslImm _ _ | .aslReg _ _ | .lsrImm _ _ | .lsrReg _ _
  | .lslImm _ _ | .lslReg _ _ => []
  | .lineA _ | .lineF _ => []

/-- The words of a well-formed instruction. -/
def encode (i : Instr) : List Word := i.op :: i.ext

/-! ## Reading a word of the opcode table -/

/-- The two bytes of a word, in memory order. -/
def bytesOfWord (w : Word) : List Byte := [w.extractLsb' 8 8, w.extractLsb' 0 8]

/-- The six bytes in memory order of the instruction whose first word is bits 15-0 of `w`
below bit `nbits`, whose second is bits 31-16 and whose third is bits 47-32. -/
def tableBytes (nbits w : Nat) : List Byte :=
  let v := w % 2 ^ nbits
  bytesOfWord (BitVec.ofNat 16 v) ++ bytesOfWord (BitVec.ofNat 16 (v / 2 ^ 16))
    ++ bytesOfWord (BitVec.ofNat 16 (v / 2 ^ 32))

/-- The instruction that the decoder reads from those bytes, on a chip with the default
parameters. -/
def decodeTableWord (nbits w : Nat) : Option Instr :=
  match decodeBytes .default (tableBytes nbits w) with
  | .ok (i, _) => some i
  | .error _ => none

end Sys2Proof
end

