-- ==== Sys2Proof/Machine/State.lean ====
section
/-! DEFINITION. The machine's state as plain data, and the state right after reset. -/

namespace Sys2Proof.Machine

/-- The ten implemented bits of the status register (10_state R28, R29). The reserved bits
14, 11 and 7-5 have no storage: they read as zero and a written 1 is dropped. -/
structure SR where
  /-- Trace enable, bit 15. -/
  t : Bool
  /-- Supervisor state, bit 13. -/
  s : Bool
  /-- Master/interrupt state, bit 12: no effect (10_state R30). -/
  m : Bool
  /-- Interrupt priority mask, bits 10-8. -/
  i : BitVec 3
  /-- Extend, bit 4. -/
  x : Bool
  /-- Negative, bit 3. -/
  n : Bool
  /-- Zero, bit 2. -/
  z : Bool
  /-- Overflow, bit 1. -/
  v : Bool
  /-- Carry, bit 0. -/
  c : Bool
deriving DecidableEq, Repr

/-- `run_state` (10_state R38, 70_reset R474). -/
inductive RunState where
  | running
  | stopped
  | haltedByInstruction
  | haltedFault
deriving DecidableEq, Repr

/-- The output events of the debug instructions (46_system_control R372). -/
inductive DebugEvent where
  | halt
  | pulse
  | ddata (sz : Size) (v : Long)
  | wdebug (c0 c1 : Long)
deriving DecidableEq, Repr

/-- The answers to an interrupt acknowledge (60_exceptions R442). -/
inductive Iack where
  | vector (n : Byte)
  | autovector
  | busError
deriving DecidableEq, Repr

/-- What the outside world presents during one step (10_state R20, log 6). -/
structure EnvInput where
  /-- The reset input is asserted (70_reset R470). -/
  reset : Bool
  /-- The interrupt request level, 0 for none (60_exceptions R440). -/
  irqLevel : BitVec 3
  /-- The answer to an acknowledge at this step's boundary (60_exceptions R442). -/
  iack : Iack
  /-- The debug module requests the debug interrupt (60_exceptions R431). -/
  debugIrq : Bool
  /-- The debug module issues "go" (46_system_control R368). -/
  go : Bool
  /-- The memory system signals the oldest pending write error now (60_exceptions R420). -/
  reportWriteError : Bool
deriving DecidableEq, Repr

/-- What a step finds when the list of inputs is exhausted: no reset, no request, no signal. Should
that step take a latched level 7, its acknowledge is answered with a bus error, so vector 24: the
spec leaves the answer to the platform (00_scope R5, 60_exceptions R442). DESIGN CHOICE, unsafe,
logs 6 and 29. -/
def EnvInput.idle : EnvInput where
  reset := false
  irqLevel := 0
  iack := .busError
  debugIrq := false
  go := false
  reportWriteError := false

/-- Memory as (address, byte) pairs: addresses strictly rising, no byte equal to 0, which is
what an unlisted address reads as (log 1). `Memory.wf` says so. -/
abbrev Memory := List Host.Cell

/-- The bytes one store replaced, as they were before it. -/
abbrev Replaced := List Host.Cell

/-- Everything the spec gives the machine (10_state, 20_memory), the inputs it has yet to
read, and the parameters of the chip. INVENTORY.md lists each field with its rule. -/
structure State where
  /-- D0 to D7 (10_state R21). -/
  d : Vector Long 8
  /-- A0 to A7; A7 is the stack pointer (10_state R22). -/
  a : Vector Long 8
  /-- The address of the operation word of the instruction to execute (10_state R26). -/
  pc : Long
  /-- The status register (10_state R28). -/
  sr : SR
  /-- Bits 31-20 of the vector base register; the others are zero (10_state R34). -/
  vbr : BitVec 12
  /-- The other registers of MOVEC (10_state R35). -/
  ctrl : ControlRegs
  /-- Memory (20_memory R60). -/
  mem : Memory
  /-- `run_state` (10_state R38). -/
  run : RunState
  /-- `trace_pending` (10_state R38, 60_exceptions R432). -/
  tracePending : Bool
  /-- `irq_inhibit` (10_state R38, 60_exceptions R444). -/
  irqInhibit : Bool
  /-- `prev_irq_level` (10_state R38, 60_exceptions R441). -/
  prevIrqLevel : BitVec 3
  /-- `nmi_latched` (10_state R38, 60_exceptions R441). -/
  nmiLatched : Bool
  /-- `debug_irq_pending` (10_state R38, 60_exceptions R431). -/
  debugIrqPending : Bool
  /-- `write_buffer`: the writes whose error is pending, oldest first (10_state R38, log 8). -/
  writeBuffer : List PendingWrite
  /-- What the stores since the last synchronising event replaced, latest first (20_memory R81). -/
  stale : List Replaced
  /-- The output trace of 46_system_control R372, oldest event first. -/
  debugEvents : List DebugEvent
  /-- The platform's memory map in force (20_memory R73, R78). -/
  memoryMap : MemoryMap
  /-- The parameters of the chip (00_scope R5); no step changes them. -/
  cfg : Config
  /-- The inputs still to come, one per step; none left is `EnvInput.idle` (log 6). -/
  env : List EnvInput
  /-- The model's own: how many free values have been drawn (log 11). -/
  draws : Nat
deriving DecidableEq, Repr

/-- No step of this machine faults: every fault of the spec is an exception, which is a next
state (60_exceptions R400), and the fault-on-fault halt is a run state (R455). -/
inductive Fault where
deriving DecidableEq, Repr

/-- Why a step has no next state. Each is the spec's own refusal and is safe: the model
stops where the hardware might go on. -/
inductive Refusal where
  /-- `exec`, for an instruction that has no meaning yet. Safe. -/
  | notModelled (mnemonic : String)
  /-- `step`, for an operation word outside lines A and F that matches no instruction, when
  `UNDEFINED_OPWORD_TRAPS` is false (30_encoding R106, D9). Safe. -/
  | undefinedOpword (w : Word)
  /-- `step`, for a MULS.L or MULU.L word with a reserved bit set (41_integer_arithmetic R243,
  R245), or in supervisor mode a second WDEBUG word other than $0003 (46_system_control R371):
  the spec has the model refuse both (30_encoding R107, D11). Safe. -/
  | reservedExtension (w : Word)
  /-- `step`, for a line-F word beyond WDDATA and WDEBUG that the chip defines: the spec gives
  it no effect (30_encoding R106, D10). Safe. -/
  | lineFElsewhere (w : Word)
  /-- `exec` of LINK A7 (40_data_movement R208, D16). Safe. -/
  | linkA7
  /-- `exec` of UNLK A7 (40_data_movement R209, D16). Safe. -/
  | unlkA7
  /-- `exec` of MOVEC with a code that is "undefined" (46_system_control R365, D21). Safe. -/
  | movecUndefined (rc : BitVec 12)
  /-- `exec` of WDEBUG at an address that is no multiple of 4, "undefined"
  (46_system_control R371, D26). Safe. -/
  | wdebugMisaligned
  /-- `exec` of a term of `Instr` that no word encodes (an operand mode outside the
  instruction's table); decoding never gives one. Safe. -/
  | illFormed
  /-- `step`, if the words fetched were fewer than the operation word asks for; the fetch
  brings exactly as many. Safe. -/
  | truncated
deriving DecidableEq, Repr

/-- Right after reset (70_reset R471, R472): the reset sequence over memory that lists
nothing, so that the long words at 0 and 4 read as 0 (logs 1 and 3). The registers for which
R471 states no value hold 0: DESIGN CHOICE, log 2. -/
def State.reset : State where
  d := Vector.replicate 8 0
  a := Vector.replicate 8 0
  pc := 0
  sr := { t := false, s := true, m := false, i := 7, x := false, n := false, z := false,
          v := false, c := false }
  vbr := 0
  ctrl := { cacr := 0, tcr := 0, acr2 := 0, acr3 := 0, acr0 := 0, acr1 := 0, rombar := 0,
            rambar0 := 0, rambar1 := 0, mbar := 0 }
  mem := []
  run := .running
  tracePending := false
  irqInhibit := true
  prevIrqLevel := 0
  nmiLatched := false
  debugIrqPending := false
  writeBuffer := []
  stale := []
  debugEvents := []
  memoryMap := .ram
  cfg := .default
  env := []
  draws := 0

end Sys2Proof.Machine
end

