-- ==== Sys2Proof/Machine/Flags.lean ====
section
/-! DEFINITION. The status register as a word, and every condition code computation
(10_state R27 to R33, 41 R230, 42 R270, 43 R290, 44 R310). -/

namespace Sys2Proof.Machine

/-! ## The status register as a word -/

/-- A read of SR: bits 14, 11 and 7-5 are 0 (10_state R28, R29). -/
def SR.toWord (sr : SR) : Word :=
  BitVec.ofBool sr.t ++ 0#1 ++ BitVec.ofBool sr.s ++ BitVec.ofBool sr.m ++ 0#1 ++ sr.i ++ 0#3
    ++ BitVec.ofBool sr.x ++ BitVec.ofBool sr.n ++ BitVec.ofBool sr.z ++ BitVec.ofBool sr.v
    ++ BitVec.ofBool sr.c

/-- A write of SR, `w & 0xB71F` (10_state R29). -/
def SR.ofWord (w : Word) : SR where
  t := w.getLsbD 15
  s := w.getLsbD 13
  m := w.getLsbD 12
  i := w.extractLsb' 8 3
  x := w.getLsbD 4
  n := w.getLsbD 3
  z := w.getLsbD 2
  v := w.getLsbD 1
  c := w.getLsbD 0

/-- A read of CCR, `zext_16(SR[4:0])` (10_state R29). -/
def SR.ccrWord (sr : SR) : Word :=
  0#11 ++ BitVec.ofBool sr.x ++ BitVec.ofBool sr.n ++ BitVec.ofBool sr.z ++ BitVec.ofBool sr.v
    ++ BitVec.ofBool sr.c

/-- A write of CCR: five bits, the system byte unchanged (10_state R29, 46 R364). -/
def SR.setCcr (sr : SR) (w : Word) : SR :=
  { sr with x := w.getLsbD 4, n := w.getLsbD 3, z := w.getLsbD 2, v := w.getLsbD 1,
            c := w.getLsbD 0 }

/-- What exception entry makes of SR (60_exceptions R410 step 1): S set, T clear, and for an
interrupt the mask at its level, and M clear on a chip with `IRQ_CLEARS_M`. -/
def SR.enter (sr : SR) (irqClearsM : Bool) (level : Option (BitVec 3)) : SR :=
  match level with
  | none => { sr with s := true, t := false }
  | some l => { sr with s := true, t := false, i := l, m := sr.m && !irqClearsM }

/-! ## Results -/

/-- The low `bits(sz)` bits of a value. -/
def truncateTo (v : Long) : Size → Long
  | .byte => (v.extractLsb' 0 8).setWidth 32
  | .word => (v.extractLsb' 0 16).setWidth 32
  | .long => v

/-- `msb(v, sz)` (00_scope R8). -/
def msbOf (v : Long) : Size → Bool
  | .byte => v.getLsbD 7
  | .word => v.getLsbD 15
  | .long => v.getLsbD 31

/-- `sext_32` of a value of size `sz` (00_scope R8). -/
def signExtend (v : Long) : Size → Long
  | .byte => (v.extractLsb' 0 8).signExtend 32
  | .word => (v.extractLsb' 0 16).signExtend 32
  | .long => v

/-- The flags "- * * 0 0" on a value of size `sz` (10_state R32, 40 R200, 42 R270). -/
def SR.logic (sr : SR) (v : Long) (sz : Size) : SR :=
  { sr with n := msbOf v sz, z := decide (truncateTo v sz = 0), v := false, c := false }

/-- A 32-bit result with its carry or borrow and its overflow. -/
structure Sum where
  r : Long
  c : Bool
  v : Bool
deriving DecidableEq, Repr

/-- `AddFlags(s, d, x)` of 41_integer_arithmetic R230. -/
def addFlags (s d : Long) (x : Bool) : Sum :=
  let r := d + s + (BitVec.ofBool x).setWidth 32
  { r := r
    c := decide (2 ^ 32 ≤ s.toNat + d.toNat + x.toNat)
    v := s.getLsbD 31 == d.getLsbD 31 && r.getLsbD 31 != s.getLsbD 31 }

/-- `SubFlags(s, d, x)` of 41_integer_arithmetic R230: destination minus source. -/
def subFlags (s d : Long) (x : Bool) : Sum :=
  let r := d - s - (BitVec.ofBool x).setWidth 32
  { r := r
    c := decide (d.toNat < s.toNat + x.toNat)
    v := s.getLsbD 31 != d.getLsbD 31 && r.getLsbD 31 != d.getLsbD 31 }

/-- ADD, SUB, NEG and their immediate and quick forms: all five flags (10_state R32). -/
def SR.arith (sr : SR) (f : Sum) : SR :=
  { sr with x := f.c, n := f.r.getLsbD 31, z := decide (f.r = 0), v := f.v, c := f.c }

/-- ADDX, SUBX, NEGX: as `SR.arith`, but Z is only ever cleared (10_state R32). -/
def SR.arithX (sr : SR) (f : Sum) : SR :=
  { sr with x := f.c, n := f.r.getLsbD 31, z := sr.z && decide (f.r = 0), v := f.v, c := f.c }

/-- CMP, CMPA, CMPI: X is not affected (10_state R32). -/
def SR.compare (sr : SR) (f : Sum) : SR :=
  { sr with n := f.r.getLsbD 31, z := decide (f.r = 0), v := f.v, c := f.c }

/-- The bit instructions: Z alone (44_bit_manipulation R310). -/
def SR.bitTest (sr : SR) (old : Bool) : SR := { sr with z := !old }

/-! ## Shifts -/

/-- The four shifts (43_shift R292 to R295). -/
inductive ShiftOp where
  | asl
  | asr
  | lsl
  | lsr
deriving DecidableEq, Repr

/-- One position: the value and the bit shifted out (43_shift R290). -/
def ShiftOp.once (op : ShiftOp) (v : Long) : Long × Bool :=
  match op with
  | .asl | .lsl => (v <<< 1, v.getLsbD 31)
  | .lsr => (v >>> 1, v.getLsbD 0)
  | .asr => (v.sshiftRight 1, v.getLsbD 0)

/-- `c` positions, one at a time; `out` is the bit shifted out before (43_shift R290). -/
def ShiftOp.times (op : ShiftOp) : Nat → Long → Bool → Long × Bool
  | 0, v, out => (v, out)
  | c + 1, v, _ => op.times c (op.once v).1 (op.once v).2

/-- The flags of a shift by `c` (43_shift R290): a count of zero clears C and keeps X. -/
def SR.shift (sr : SR) (c : Nat) (v : Long) (out : Bool) : SR :=
  { sr with
    x := if c = 0 then sr.x else out
    n := v.getLsbD 31
    z := decide (v = 0)
    v := false
    c := if c = 0 then false else out }

/-! ## Conditional tests -/

/-- `Cond(cc)` (10_state R33). -/
def condHolds (cond : Cond) (sr : SR) : Bool :=
  match cond with
  | .t => true
  | .f => false
  | .hi => !sr.c && !sr.z
  | .ls => sr.c || sr.z
  | .cc => !sr.c
  | .cs => sr.c
  | .ne => !sr.z
  | .eq => sr.z
  | .vc => !sr.v
  | .vs => sr.v
  | .pl => !sr.n
  | .mi => sr.n
  | .ge => sr.n && sr.v || !sr.n && !sr.v
  | .lt => sr.n && !sr.v || !sr.n && sr.v
  | .gt => sr.n && sr.v && !sr.z || !sr.n && !sr.v && !sr.z
  | .le => sr.z || sr.n && !sr.v || !sr.n && sr.v

end Sys2Proof.Machine
end

