-- ==== Sys2Proof/Machine/Memory.lean ====
section
/-! DEFINITION. Memory as canonical data, its bytes and its big-endian long words
(20_memory R60 to R62). -/

namespace Sys2Proof.Machine

/-- What an address that is not listed reads as: DESIGN CHOICE, unsafe, log 1. -/
def unwritten : Byte := 0

/-- The byte listed for `a` in a list of cells. -/
def lookup (a : Nat) : List Host.Cell → Option Byte
  | [] => none
  | (b, v) :: cells => if b = a then some v else lookup a cells

/-- The byte at address `a`. -/
def Memory.byte (m : Memory) (a : Nat) : Byte := (lookup a m).getD unwritten

/-- Put a cell in its place in a list of rising addresses. -/
def insertCell (a : Nat) (v : Byte) : List Host.Cell → List Host.Cell
  | [] => [(a, v)]
  | (b, w) :: cells =>
    if a < b then (a, v) :: (b, w) :: cells else (b, w) :: insertCell a v cells

/-- Take the cells of an address out. -/
def removeCell (a : Nat) : List Host.Cell → List Host.Cell
  | [] => []
  | (b, w) :: cells => if b = a then removeCell a cells else (b, w) :: removeCell a cells

/-- Store a byte; storing what an unlisted address reads as lists nothing. -/
def Memory.setByte (m : Memory) (a : Nat) (v : Byte) : Memory :=
  if v = unwritten then removeCell a m else insertCell a v (removeCell a m)

/-- Addresses strictly rising from `lo` on, inside the 32-bit space, no byte `unwritten`. -/
def Memory.wfFrom (lo : Nat) : Memory → Bool
  | [] => true
  | (a, v) :: m => lo ≤ a && a < 2 ^ 32 && v != unwritten && Memory.wfFrom (a + 1) m

/-- The canonical form of memory: equal memories are equal lists. -/
def Memory.wf (m : Memory) : Bool := m.wfFrom 0

/-- The canonical memory with these cells, a later one over an earlier, addresses modulo 2^32. -/
def Memory.ofCells (cells : List Host.Cell) : Memory :=
  cells.foldl (fun m c => m.setByte (c.1 % 2 ^ 32) c.2) []

/-- `MemRead` without its checks (20_memory R61): bytes at rising addresses modulo 2^32, the
first the most significant; zero-extended to 32 bits. -/
def Memory.read (m : Memory) (a : Long) : Size → Long
  | .byte => (m.byte a.toNat).setWidth 32
  | .word => (m.byte a.toNat ++ m.byte (a + 1).toNat).setWidth 32
  | .long => m.byte a.toNat ++ m.byte (a + 1).toNat ++ m.byte (a + 2).toNat ++ m.byte (a + 3).toNat

/-- `MemWrite` without its checks (20_memory R62), the inverse of `Memory.read`. -/
def Memory.write (m : Memory) (a : Long) (sz : Size) (v : Long) : Memory :=
  match sz with
  | .byte => m.setByte a.toNat (v.extractLsb' 0 8)
  | .word =>
    (m.setByte a.toNat (v.extractLsb' 8 8)).setByte (a + 1).toNat (v.extractLsb' 0 8)
  | .long =>
    (((m.setByte a.toNat (v.extractLsb' 24 8)).setByte (a + 1).toNat (v.extractLsb' 16 8)).setByte
      (a + 2).toNat (v.extractLsb' 8 8)).setByte (a + 3).toNat (v.extractLsb' 0 8)

/-- The addresses of the bytes of an operand (20_memory R60, R61). -/
def byteAddrs (a : Long) : Size → List Nat
  | .byte => [a.toNat]
  | .word => [a.toNat, (a + 1).toNat]
  | .long => [a.toNat, (a + 1).toNat, (a + 2).toNat, (a + 3).toNat]

end Sys2Proof.Machine
end

