-- ==== Sys2Proof/Machine/Ops.lean ====
section
/-! DEFINITION. The named operations over registers and memory: accessors, checked accesses,
the stack, transfers of control, pending write errors, and taking an exception. -/

namespace Sys2Proof.Machine

/-! ## Registers -/

/-- `D[n]` (00_scope R8). -/
def State.dreg (s : State) (n : RegNum) : Long := s.d.get n

/-- `A[n]` (00_scope R8). -/
def State.areg (s : State) (n : RegNum) : Long := s.a.get n

/-- `SP`, which is `A[7]` (00_scope R8). -/
def State.sp (s : State) : Long := s.areg 7

/-- `R[k]` (00_scope R8). -/
def State.reg (s : State) : Reg → Long
  | .d n => s.dreg n
  | .a n => s.areg n

/-- `D[n] <- v`, all 32 bits. -/
def State.setD (s : State) (n : RegNum) (v : Long) : State := { s with d := s.d.set n v }

/-- `A[n] <- v`, all 32 bits. -/
def State.setA (s : State) (n : RegNum) (v : Long) : State := { s with a := s.a.set n v }

/-- `SP <- v`. -/
def State.setSp (s : State) (v : Long) : State := s.setA 7 v

/-- `R[k] <- v`. -/
def State.setReg (s : State) (r : Reg) (v : Long) : State :=
  match r with
  | .d n => s.setD n v
  | .a n => s.setA n v

/-- The low bits of `old` replaced by the `sz` value `v` (10_state R23). -/
def mergeLow (old v : Long) : Size → Long
  | .byte => old.extractLsb' 8 24 ++ v.extractLsb' 0 8
  | .word => old.extractLsb' 16 16 ++ v.extractLsb' 0 16
  | .long => v

/-- A write of a size to a data register: the other bits keep their value (10_state R23). -/
def State.setDSized (s : State) (n : RegNum) (sz : Size) (v : Long) : State :=
  s.setD n (mergeLow (s.dreg n) v sz)

/-- A write of the status register. -/
def State.setSr (s : State) (sr : SR) : State := { s with sr := sr }

/-- `pc <- t`. -/
def State.setPc (s : State) (t : Long) : State := { s with pc := t }

/-- The next instruction is at `PC + ilen` (00_scope R8). -/
def State.advance (s : State) (i : Instr) : State := s.setPc (s.pc + i.ilen)

/-- `VBR` as 32 bits (10_state R34). -/
def State.vbrWord (s : State) : Long := s.vbr ++ 0#20

/-- An output event (46_system_control R372). -/
def State.emit (s : State) (e : DebugEvent) : State :=
  { s with debugEvents := s.debugEvents ++ [e] }

/-- A synchronising event of 20_memory R81: fetches see every store from here on. -/
def State.sync (s : State) : State := { s with stale := [] }

/-- One free value more has been drawn. -/
def State.drawn (s : State) : State := { s with draws := s.draws + 1 }

/-! ## Exceptions that an instruction can end in -/

/-- The causes of an address error (60_exceptions R421). -/
inductive AddressCause where
  | oddTarget
  | invalidIndex
  | misalignedRead
  | misalignedWrite
deriving DecidableEq, Repr

/-- The exceptions of 60_exceptions R400 that an instruction raises. -/
inductive Exc where
  | accessFetch
  | accessRead
  | accessWrite (fs : BitVec 4)
  | addressError (c : AddressCause)
  | illegal
  | privilege
  | trace
  | lineA
  | lineF
  | format
  | trap (n : BitVec 4)
deriving DecidableEq, Repr

/-- A part of an instruction: its value and the state after it, or the exception it raises
and the state in which it does, or a refusal. -/
inductive Eff (α : Type) where
  | ok (v : α) (s : State)
  | raise (x : Exc) (s : State)
  | refuse (r : Refusal)

/-- One part, then the next. -/
def Eff.andThen {α β : Type} (e : Eff α) (k : α → State → Eff β) : Eff β :=
  match e with
  | .ok v s => k v s
  | .raise x s => .raise x s
  | .refuse r => .refuse r

/-- The result of an instruction. -/
abbrev Result := Host.Outcome State Fault Refusal

/-! ## The memory system -/

/-- The answers of the platform for one address (20_memory R69, R73). -/
def answersAt (map : MemoryMap) (supervisor : Bool) (a : Nat) : Answers :=
  match map.regions.find? fun r => r.first ≤ a && a ≤ r.last with
  | some r => if supervisor then r.supervisor else r.user
  | none => if supervisor then map.supervisor else map.user

/-- The answers for one address in the mode of the machine. -/
def State.answers (s : State) (a : Nat) : Answers := answersAt s.memoryMap s.sr.s a

/-- One aligned bus cycle of a size, with the value it writes if it writes. -/
structure BusCycle where
  addr : Long
  size : Size
  value : Long
deriving DecidableEq, Repr

/-- A read cycle at `a` completes: every byte of it answers. -/
def State.canRead (s : State) (a : Long) (sz : Size) : Bool :=
  (byteAddrs a sz).all fun b => (s.answers b).read

/-- A fetch of the word at `a` completes. -/
def State.canFetch (s : State) (a : Long) : Bool :=
  (byteAddrs a .word).all fun b => (s.answers b).fetch

/-- The first answer that is not `ok`. -/
def worstAnswer : List WriteAnswer → WriteAnswer
  | [] => .ok
  | .ok :: l => worstAnswer l
  | w :: _ => w

/-- How a write cycle ends. -/
def State.writeAnswer (s : State) (a : Long) (sz : Size) : WriteAnswer :=
  worstAnswer ((byteAddrs a sz).map fun b => (s.answers b).write)

/-- The fault status of a write error (60_exceptions R414). -/
def writeErrorFs : WriteAnswer → BitVec 4
  | .writeProtected => 0b1001
  | _ => 0b1000

/-- Misaligned: not on 0-modulo-2 or 0-modulo-4 (20_memory R64). -/
def misaligned (a : Long) : Size → Bool
  | .byte => false
  | .word => a.getLsbD 0
  | .long => a.getLsbD 0 || a.getLsbD 1

/-- The bus cycles of an operand (20_memory R65): one if it is aligned, else the aligned
pieces at rising addresses (DESIGN CHOICE, log 13). -/
def busCycles (a : Long) (sz : Size) (v : Long) : List BusCycle :=
  match sz with
  | .byte => [⟨a, .byte, v⟩]
  | .word =>
    if misaligned a .word then
      [⟨a, .byte, (v.extractLsb' 8 8).setWidth 32⟩, ⟨a + 1, .byte, (v.extractLsb' 0 8).setWidth 32⟩]
    else [⟨a, .word, v⟩]
  | .long =>
    if a.getLsbD 0 then
      [⟨a, .byte, (v.extractLsb' 24 8).setWidth 32⟩, ⟨a + 1, .word, (v.extractLsb' 8 16).setWidth 32⟩,
        ⟨a + 3, .byte, (v.extractLsb' 0 8).setWidth 32⟩]
    else if a.getLsbD 1 then
      [⟨a, .word, (v.extractLsb' 16 16).setWidth 32⟩, ⟨a + 2, .word, (v.extractLsb' 0 16).setWidth 32⟩]
    else [⟨a, .long, v⟩]

/-- `MemRead` (20_memory R61): the alignment check, then the access check, then the bytes. -/
def readMem (a : Long) (sz : Size) (s : State) : Eff Long :=
  if misaligned a sz && !s.cfg.hasMisalign then .raise (.addressError .misalignedRead) s
  else if (busCycles a sz 0).all fun c => s.canRead c.addr c.size then .ok (s.mem.read a sz) s
  else .raise .accessRead s

/-- The bytes of a cycle that its value changes, as they are now (20_memory R81). -/
def replacedBy (m : Memory) (c : BusCycle) : Replaced :=
  let after := m.write c.addr c.size c.value
  ((byteAddrs c.addr c.size).filter fun a => m.byte a != after.byte a).map fun a => (a, m.byte a)

/-- A store is remembered until the next synchronising event, unless it changed nothing. -/
def remember (r : Replaced) (stale : List Replaced) : List Replaced :=
  match r with
  | [] => stale
  | _ => r :: stale

/-- One write cycle: it completes at once (log 8), or its error stays pending and memory is
unchanged (20_memory R67). -/
def writeCycle (s : State) (c : BusCycle) : State :=
  match s.writeAnswer c.addr c.size with
  | .ok =>
    { s with
      mem := s.mem.write c.addr c.size c.value
      stale := remember (replacedBy s.mem c) s.stale }
  | w => { s with writeBuffer := s.writeBuffer ++ [⟨c.addr, c.size, c.value, writeErrorFs w⟩] }

/-- `MemWrite` (20_memory R62): the alignment check, then the cycles. -/
def writeMem (a : Long) (sz : Size) (v : Long) (s : State) : Eff Unit :=
  if misaligned a sz && !s.cfg.hasMisalign then .raise (.addressError .misalignedWrite) s
  else .ok () ((busCycles a sz v).foldl writeCycle s)

/-- A push: `SP <- SP - 4`, then the long word (20_memory R74). -/
def push (v : Long) (s : State) : Eff Unit :=
  writeMem (s.sp - 4) .long v (s.setSp (s.sp - 4))

/-! ## Transfers of control -/

/-- The target of a transfer of control is even (45_program_control R330). -/
def checkTarget (t : Long) (s : State) : Eff Unit :=
  if t.getLsbD 0 then .raise (.addressError .oddTarget) s else .ok () s

/-- Only supervisor mode goes on (46_system_control R360). -/
def supervisorOnly (s : State) : Eff Unit :=
  if s.sr.s then .ok () s else .raise .privilege s

/-- NOP, HALT and STOP wait for the pending writes: the oldest pending error is reported
(20_memory R67, R75, log 9). -/
def drain (s : State) : Eff Unit :=
  match s.writeBuffer with
  | [] => .ok () s
  | p :: rest => .raise (.accessWrite p.fs) { s with writeBuffer := rest }

/-! ## Taking an exception -/

/-- The vector number (60_exceptions R401). -/
def Exc.vector : Exc → Byte
  | .accessFetch | .accessRead | .accessWrite _ => 2
  | .addressError _ => 3
  | .illegal => 4
  | .privilege => 8
  | .trace => 9
  | .lineA => 10
  | .lineF => 11
  | .format => 14
  | .trap n => 32 + n.setWidth 8

/-- The program counter to stack (60_exceptions R415), with `s.pc` still the address of the
instruction; for the trace after STOP it is already the address after it (46 R367). -/
def Exc.stackedPc (x : Exc) (s : State) : Long :=
  match x with
  | .trap _ => s.pc + 2
  | _ => s.pc

/-- FS of an address error: the platform's map, or a free value (60_exceptions R421, log 11). -/
def addressErrorFs (c : AddressCause) (s : State) : BitVec 4 × State :=
  match s.cfg.addressErrorFs with
  | none => (Config.freeFs s.draws, s.drawn)
  | some m =>
    (match c with
      | .oddTarget => m.oddTarget
      | .invalidIndex => m.invalidIndex
      | .misalignedRead => m.misalignedRead
      | .misalignedWrite => m.misalignedWrite, s)

/-- FS[3:0] of the frame (60_exceptions R414). -/
def Exc.faultStatus (x : Exc) (s : State) : BitVec 4 × State :=
  match x with
  | .accessFetch => (0b0100, s)
  | .accessRead => (0b1100, s)
  | .accessWrite fs => (fs, s)
  | .addressError c => Sys2Proof.Machine.addressErrorFs c s
  | _ => (0, s)

/-- `sp'` of 60_exceptions R413: the frame is aligned whatever A7 is. -/
def frameSp (sp : Long) : Long := (sp &&& 0xFFFFFFFC) - 8

/-- The first long word of the frame (60_exceptions R411): format, FS[3:2], vector, FS[1:0],
status register. -/
def frameWord (sp : Long) (fs : BitVec 4) (vector : Byte) (sr : SR) : Long :=
  (4#4 + (sp.extractLsb' 0 2).setWidth 4) ++ fs.extractLsb' 2 2 ++ vector ++ fs.extractLsb' 0 2
    ++ sr.toWord

/-- The fault-on-fault halt (60_exceptions R455): registers, memory and hidden state are free (log
14); the output trace, the platform's map, the parameters and the inputs are not the core's. -/
def haltFault (s : State) : State :=
  let h := Config.freeHalted s.draws
  { s.drawn with
    d := h.d
    a := h.a
    pc := h.pc
    sr := SR.ofWord h.sr
    vbr := h.vbr
    ctrl := h.ctrl
    mem := Memory.ofCells h.cells
    run := .haltedFault
    tracePending := h.tracePending
    irqInhibit := h.irqInhibit
    prevIrqLevel := h.prevIrqLevel
    nmiLatched := h.nmiLatched
    debugIrqPending := h.debugIrqPending
    writeBuffer := h.writeBuffer
    stale := h.stale }

/-- The address of a vector (60_exceptions R401). -/
def State.vectorAddr (s : State) (vector : Byte) : Long := s.vbrWord + 4 * vector.setWidth 32

/-- TAKING AN EXCEPTION, `Exception(vector, spc, fs, level?)` of 60_exceptions R410: the frame
is written at the aligned stack pointer, PC first, and the handler's address is read from the
vector table. An error on any of these accesses, an odd handler address, or an error on the
fetch of the handler's operation word is the fault-on-fault halt (R455). -/
def takeException (vector : Byte) (spc : Long) (fs : BitVec 4) (level : Option (BitVec 3))
    (s : State) : State :=
  let s1 := s.setSr (s.sr.enter s.cfg.irqClearsM level)
  let sp := frameSp s.sp
  let framed := (s.mem.write (sp + 4) .long spc).write sp .long (frameWord s.sp fs vector s.sr)
  let handler := framed.read (s.vectorAddr vector) .long
  if s1.writeAnswer (sp + 4) .long == .ok && s1.writeAnswer sp .long == .ok
      && s1.canRead (s.vectorAddr vector) .long && !handler.getLsbD 0 && s1.canFetch handler then
    { s1 with
      mem := framed
      a := s.a.set 7 sp
      pc := handler
      tracePending := false
      irqInhibit := true
      stale := [] }
  else haltFault s1

/-- An instruction ends in an exception (60_exceptions R410, R414, R415). -/
def raiseExc (x : Exc) (s : State) : State :=
  takeException x.vector (x.stackedPc s) (x.faultStatus s).1 none (x.faultStatus s).2

/-- The result of an instruction from that of its parts. -/
def finish (e : Eff Unit) : Result :=
  match e with
  | .ok _ s => .next s
  | .raise x s => .next (raiseExc x s)
  | .refuse r => .refused r

/-- THE RETURN FROM AN EXCEPTION: what RTE restores from a valid frame whose two long words
are `w0` and `w1` (46_system_control R366, 60_exceptions R460). -/
def returnFromException (w0 w1 : Long) (s : State) : State :=
  ((s.setSr (SR.ofWord (w0.extractLsb' 0 16))).setSp
    (s.sp + 8 + (w0.extractLsb' 28 2).setWidth 32)).setPc w1

end Sys2Proof.Machine
end

