-- ==== Sys2Proof/Machine/Boundary.lean ====
section
/-! DEFINITION. What happens between instructions: trace, the debug interrupt, interrupts, the
inputs of the environment, and reset (60_exceptions R432, R440 to R444, R450, 70_reset R470 to
R474). -/

namespace Sys2Proof.Machine

/-- This step's input (log 6). -/
def State.input (s : State) : EnvInput := s.env.headD .idle

/-- The input consumed; a request of the debug module is latched if there is one
(60_exceptions R431). -/
def takeInput (s : State) : State :=
  { s with
    env := s.env.tail
    debugIrqPending := s.debugIrqPending || (s.input.debugIrq && s.cfg.hasDebug) }

/-- `TakeInterrupt(L)`'s vector (60_exceptions R442); without the autovector module that answer
cannot occur, and counts as spurious (log 18). -/
def iackVector (cfg : Config) (level : BitVec 3) : Iack → Byte
  | .vector n => n
  | .autovector => if cfg.hasAutovector then 24 + level.setWidth 8 else 24
  | .busError => 24

/-- The state part of `Sample(level)` (60_exceptions R441): the transition latch. -/
def latchLevel (level : BitVec 3) (s : State) : State :=
  { s with
    nmiLatched := s.nmiLatched || (level == 7 && s.prevIrqLevel != 7)
    prevIrqLevel := level }

/-- The answer of `Sample(level)` after `latchLevel` (60_exceptions R441, R444). -/
def recognised (level : BitVec 3) (s : State) : Option (BitVec 3) :=
  if s.irqInhibit then none
  else if s.nmiLatched then some 7
  else if s.sr.i.toNat < level.toNat then some level
  else none

/-- `TakeInterrupt(L)` (60_exceptions R441, R442). -/
def takeInterrupt (level : BitVec 3) (ack : Iack) (s : State) : State :=
  takeException (iackVector s.cfg level ack) s.pc 0 (some level)
    { s with nmiLatched := s.nmiLatched && level != 7, run := .running }

/-- An instruction boundary that no trace and no debug interrupt takes. -/
def sampleInterrupts (inp : EnvInput) (s : State) : State :=
  let s := latchLevel inp.irqLevel s
  match recognised inp.irqLevel s with
  | some level => takeInterrupt level inp.iack s
  | none => s

/-- Steps 1 and 2 of 60_exceptions R450, for a machine that runs or is stopped; a halted one
takes no exception (70_reset R474). -/
def boundary (inp : EnvInput) (s : State) : State :=
  if s.run = .haltedFault || s.run = .haltedByInstruction then s
  else if s.run = .running && s.tracePending then takeException 9 s.pc 0 none s
  else if !s.irqInhibit && s.debugIrqPending then
    takeException 12 s.pc 0 none { s with debugIrqPending := false, run := .running }
  else sampleInterrupts inp s

/-- The boundary after an instruction, whatever came of it. -/
def afterInstr (inp : EnvInput) (r : Result) : Result :=
  match r with
  | .next s => .next (boundary inp s)
  | .fault f => .fault f
  | .refused r => .refused r

/-- Step 4 of 60_exceptions R450; the inhibition ends with this instruction unless it takes an
exception (R444, log 24). -/
def beginInstr (s : State) : State := { s with tracePending := s.sr.t, irqInhibit := false }

/-- The registers and hidden state of 70_reset R471. Those for which it gives no value take the
value of `State.reset` (log 17). -/
def resetValues (level : BitVec 3) (s : State) : State :=
  { State.reset with
    prevIrqLevel := level
    mem := s.mem
    memoryMap := s.memoryMap
    cfg := s.cfg
    env := s.env
    debugEvents := s.debugEvents
    draws := s.draws }

/-- `Reset()` (70_reset R472, R473): the long words at 0 and 4. -/
def takeReset (level : BitVec 3) (s : State) : State :=
  let s := resetValues level s
  let sp := s.mem.read 0 .long
  let start := s.mem.read 4 .long
  if s.canRead 0 .long && s.canRead 4 .long && !start.getLsbD 0 && s.canFetch start then
    (s.setSp sp).setPc start
  else haltFault s

/-- Step 3 of 60_exceptions R450: the memory system signals the oldest pending write error at
the start of the instruction (R420). -/
def signalledError (inp : EnvInput) (s : State) : Option (State × PendingWrite) :=
  if inp.reportWriteError then
    match s.writeBuffer with
    | [] => none
    | p :: rest => some ({ s with writeBuffer := rest }, p)
  else none

end Sys2Proof.Machine
end

