-- ==== Sys2Proof/Machine/Operands.lean ====
section
/-! DEFINITION. Operands: the address of each mode, its side effects, and the reads and writes
through it (30_encoding R110 to R125). -/

namespace Sys2Proof.Machine

/-- The index word is valid (30_encoding R115). -/
def indexValid (w : IndexWord) : Bool := w.long && w.scale != 3 && !w.full

/-- The effective address has no invalid index word. -/
def eaIndexValid : Ea → Bool
  | .index _ w | .pcIndex w => indexValid w
  | _ => true

/-- An invalid index word is an address error before anything else happens (30_encoding R115). -/
def checkIndex (ea : Ea) (s : State) : Eff Unit :=
  if eaIndexValid ea then .ok () s else .raise (.addressError .invalidIndex) s

/-- `sext_32(d8) + Index(w)` for a valid word (30_encoding R115). -/
def indexOffset (w : IndexWord) (s : State) : Long :=
  w.d8.signExtend 32 + (s.reg w.xn <<< w.scale.toNat)

/-- The step of (An)+ and -(An): the operand's size, also for A7 (30_encoding R114). -/
def autoStep (sz : Size) : Long := BitVec.ofNat 32 sz.bytes

/-- `extaddr`: the word after the operation word (30_encoding R117). -/
def State.extAddr (s : State) : Long := s.pc + 2

/-- Where an operand is. -/
inductive Place where
  | dreg (n : RegNum)
  | areg (n : RegNum)
  | mem (a : Long)
  | imm (v : Long)
deriving DecidableEq, Repr

/-- Form the operand's address, with the register update of (An)+ and -(An)
(30_encoding R111 to R119, R123). -/
def resolve (ea : Ea) (sz : Size) (s : State) : Eff Place :=
  (checkIndex ea s).andThen fun _ s =>
    match ea with
    | .dn n => .ok (.dreg n) s
    | .an n => .ok (.areg n) s
    | .ind n => .ok (.mem (s.areg n)) s
    | .postinc n => .ok (.mem (s.areg n)) (s.setA n (s.areg n + autoStep sz))
    | .predec n => .ok (.mem (s.areg n - autoStep sz)) (s.setA n (s.areg n - autoStep sz))
    | .disp n d => .ok (.mem (s.areg n + d.signExtend 32)) s
    | .index n w => .ok (.mem (s.areg n + indexOffset w s)) s
    | .absW a => .ok (.mem (a.signExtend 32)) s
    | .absL a => .ok (.mem a) s
    | .pcDisp d => .ok (.mem (s.extAddr + d.signExtend 32)) s
    | .pcIndex w => .ok (.mem (s.extAddr + indexOffset w s)) s
    | .imm v => .ok (.imm v) s

/-- Read an operand that has been resolved (30_encoding R120); zero-extended to 32 bits. -/
def readPlace (p : Place) (sz : Size) (s : State) : Eff Long :=
  match p with
  | .dreg n => .ok (truncateTo (s.dreg n) sz) s
  | .areg n => .ok (truncateTo (s.areg n) sz) s
  | .mem a => readMem a sz s
  | .imm v => .ok (truncateTo v sz) s

/-- Write an operand that has been resolved (30_encoding R121). No row allows an immediate. -/
def writePlace (p : Place) (sz : Size) (v : Long) (s : State) : Eff Unit :=
  match p with
  | .dreg n => .ok () (s.setDSized n sz v)
  | .areg n => .ok () (s.setA n (signExtend v sz))
  | .mem a => writeMem a sz v s
  | .imm _ => .refuse .illFormed

/-- `ReadEA(ea, sz)` (30_encoding R120). -/
def readEa (ea : Ea) (sz : Size) (s : State) : Eff Long :=
  (resolve ea sz s).andThen fun p s => readPlace p sz s

/-- `WriteEA(ea, sz, v)` (30_encoding R121). -/
def writeEa (ea : Ea) (sz : Size) (v : Long) (s : State) : Eff Unit :=
  (resolve ea sz s).andThen fun p s => writePlace p sz v s

/-- A read-modify-write of one operand: resolved once, read, written (30_encoding R114, R121).
`f` gives the value to write and the status register that results. -/
def modifyEa (ea : Ea) (sz : Size) (f : Long → SR → Long × SR) (s : State) : Eff Unit :=
  (resolve ea sz s).andThen fun p s =>
    (readPlace p sz s).andThen fun v s =>
      (writePlace p sz (f v s.sr).1 s).andThen fun _ s => .ok () (s.setSr (f v s.sr).2)

/-- `AddrEA(ea)` (30_encoding R122), of the control modes only. -/
def addrEa (ea : Ea) (s : State) : Eff Long :=
  (resolve ea .long s).andThen fun p s =>
    match p with
    | .mem a => .ok a s
    | _ => .refuse .illFormed

/-- The 3-bit quick and shift-count fields: 0 stands for 8 (30_encoding R126). -/
def quickValue (q : BitVec 3) : Nat := if q = 0 then 8 else q.toNat

/-- The target of a branch: `PC + 2 + disp` (45_program_control R331). -/
def branchTarget (d : Disp) (s : State) : Long :=
  match d with
  | .byte d => s.pc + 2 + d.signExtend 32
  | .word d => s.pc + 2 + d.signExtend 32

/-- The value that MOVE stores: for a source An and a destination -(An) or (An)+ on the same
register, a free choice between An before and An after the update (30_encoding R125, log 12). -/
def movedValue (src dst : Ea) (sz : Size) (v : Long) (s : State) : Long × State :=
  match src, dst with
  | .an n, .postinc k =>
    if n = k then
      (if Config.freeUpdated s.draws then truncateTo (s.areg n + autoStep sz) sz else v, s.drawn)
    else (v, s)
  | .an n, .predec k =>
    if n = k then
      (if Config.freeUpdated s.draws then truncateTo (s.areg n - autoStep sz) sz else v, s.drawn)
    else (v, s)
  | _, _ => (v, s)

end Sys2Proof.Machine
end

