-- ==== Sys2Proof/Machine/Arithmetic.lean ====
section
/-! DEFINITION. The integer arithmetic instructions (41_integer_arithmetic R230 to R252). -/

namespace Sys2Proof.Machine

/-! ## Shapes -/

/-- `<ea> op Dn → Dn` with `f` the source and destination to the sum and `fl` the flags. -/
def arithToDn (f : Long → Long → Sum) (ea : Ea) (n : RegNum) (i : Instr) (s : State) : Result :=
  finish <| (readEa ea .long s).andThen fun v s =>
    let sum := f v (s.dreg n)
    .ok () (((s.setD n sum.r).setSr (s.sr.arith sum)).advance i)

/-- A read-modify-write of `<ea>` with the source value `v` (R230). -/
def arithToEa (f : Long → Long → Sum) (v : Long) (ea : Ea) (i : Instr) (s : State) : Result :=
  finish <| (modifyEa ea .long (fun d sr => ((f v d).r, sr.arith (f v d))) s).andThen fun _ s =>
    .ok () (s.advance i)

/-- `An op <ea> → An`: no flag. The rules' one line (R232, R249) does not say when An is read if the
source is (An)+ or -(An) of the same An; it is read after the source with its update, as
30_encoding R125 orders an instruction's operands: DEDUCED, unsafe, log 35. -/
def arithToAn (f : Long → Long → Long) (ea : Ea) (n : RegNum) (i : Instr) (s : State) : Result :=
  finish <| (readEa ea .long s).andThen fun v s =>
    .ok () ((s.setA n (f v (s.areg n))).advance i)

/-- `Dn op #imm → Dn`. -/
def arithImm (f : Long → Long → Sum) (n : RegNum) (v : Long) (i : Instr) (s : State) : Result :=
  let sum := f v (s.dreg n)
  .next (((s.setD n sum.r).setSr (s.sr.arith sum)).advance i)

/-- The extended forms: X takes part and Z is only ever cleared. -/
def arithX (f : Long → Long → Bool → Sum) (v d : Long) (n : RegNum) (i : Instr) (s : State) :
    Result :=
  let sum := f v d s.sr.x
  .next (((s.setD n sum.r).setSr (s.sr.arithX sum)).advance i)

/-- The sum without an extend bit. -/
def plainAdd (v d : Long) : Sum := addFlags v d false

/-- The difference `d - v` without an extend bit. -/
def plainSub (v d : Long) : Sum := subFlags v d false

/-- A product and its flags (R242 to R245). -/
def multiply (sz : Size) (f : Long → Long → Long) (ea : Ea) (n : RegNum) (i : Instr) (s : State) :
    Result :=
  finish <| (readEa ea sz s).andThen fun v s =>
    let r := f v (s.dreg n)
    .ok () (((s.setD n r).setSr (s.sr.logic r .long)).advance i)

/-- A data register replaced by `r`, the flags by its `sz` part (R240, R241). -/
def extendReg (sz : Size) (r : Long) (n : RegNum) (i : Instr) (s : State) : Result :=
  .next (((s.setDSized n sz r).setSr (s.sr.logic r sz)).advance i)

/-! ## ADD -/

/-- ADD to Dn (R231). -/
def execAddToDn (n : RegNum) (ea : Ea) (s : State) : Result :=
  arithToDn plainAdd ea n (.addToDn n ea) s

/-- ADD to memory (R231). -/
def execAddToEa (n : RegNum) (ea : Ea) (s : State) : Result :=
  arithToEa plainAdd (s.dreg n) ea (.addToEa n ea) s

/-- ADDA (R232). -/
def execAdda (ea : Ea) (n : RegNum) (s : State) : Result :=
  arithToAn (fun v a => a + v) ea n (.adda ea n) s

/-- ADDI (R233). -/
def execAddi (n : RegNum) (v : Long) (s : State) : Result := arithImm plainAdd n v (.addi n v) s

/-- ADDQ (R234): no flag for an address register. -/
def execAddq (q : BitVec 3) (ea : Ea) (s : State) : Result :=
  match ea with
  | .an n =>
    .next ((s.setA n (s.areg n + BitVec.ofNat 32 (quickValue q))).advance (.addq q (.an n)))
  | ea => arithToEa plainAdd (BitVec.ofNat 32 (quickValue q)) ea (.addq q ea) s

/-- ADDX (R235). -/
def execAddx (src dst : RegNum) (s : State) : Result :=
  arithX addFlags (s.dreg src) (s.dreg dst) dst (.addx src dst) s

/-! ## CLR, CMP, EXT -/

/-- CLR (R236): written without being read. -/
def clear (sz : Size) (ea : Ea) (i : Instr) (s : State) : Result :=
  finish <| (writeEa ea sz 0 s).andThen fun _ s => .ok () ((s.setSr (s.sr.logic 0 sz)).advance i)

/-- CLR.B (R236). -/
def execClrB (ea : Ea) (s : State) : Result := clear .byte ea (.clrB ea) s

/-- CLR.W (R236). -/
def execClrW (ea : Ea) (s : State) : Result := clear .word ea (.clrW ea) s

/-- CLR.L (R236). -/
def execClrL (ea : Ea) (s : State) : Result := clear .long ea (.clrL ea) s

/-- CMP (R237). -/
def execCmp (ea : Ea) (n : RegNum) (s : State) : Result :=
  finish <| (readEa ea .long s).andThen fun v s =>
    .ok () ((s.setSr (s.sr.compare (plainSub v (s.dreg n)))).advance (.cmp ea n))

/-- CMPA (R238). -/
def execCmpa (ea : Ea) (n : RegNum) (s : State) : Result :=
  finish <| (readEa ea .long s).andThen fun v s =>
    .ok () ((s.setSr (s.sr.compare (plainSub v (s.areg n)))).advance (.cmpa ea n))

/-- CMPI (R239). -/
def execCmpi (n : RegNum) (v : Long) (s : State) : Result :=
  .next ((s.setSr (s.sr.compare (plainSub v (s.dreg n)))).advance (.cmpi n v))

/-- EXT.W (R240): bits 31-16 unchanged. -/
def execExtW (n : RegNum) (s : State) : Result :=
  extendReg .word (signExtend (s.dreg n) .byte) n (.extW n) s

/-- EXT.L (R240). -/
def execExtL (n : RegNum) (s : State) : Result :=
  extendReg .long (signExtend (s.dreg n) .word) n (.extL n) s

/-- EXTB.L (R241). -/
def execExtbL (n : RegNum) (s : State) : Result :=
  extendReg .long (signExtend (s.dreg n) .byte) n (.extbL n) s

/-! ## MULS, MULU -/

/-- `sext(s) * sext(d)` of the low words (R242). -/
def mulSignedWord (v d : Long) : Long := signExtend v .word * signExtend d .word

/-- `zext(s) * zext(d)` of the low words (R244). -/
def mulUnsignedWord (v d : Long) : Long := truncateTo v .word * truncateTo d .word

/-- MULS.W (R242). -/
def execMulsW (ea : Ea) (n : RegNum) (s : State) : Result :=
  multiply .word mulSignedWord ea n (.mulsW ea n) s

/-- MULS.L (R243): the low 32 bits of the signed product. -/
def execMulsL (n : RegNum) (ea : Ea) (s : State) : Result :=
  multiply .long (fun v d => BitVec.ofInt 32 (v.toInt * d.toInt)) ea n (.mulsL n ea) s

/-- MULU.W (R244). -/
def execMuluW (ea : Ea) (n : RegNum) (s : State) : Result :=
  multiply .word mulUnsignedWord ea n (.muluW ea n) s

/-- MULU.L (R245): the low 32 bits of the unsigned product. -/
def execMuluL (n : RegNum) (ea : Ea) (s : State) : Result :=
  multiply .long (fun v d => BitVec.ofNat 32 (v.toNat * d.toNat)) ea n (.muluL n ea) s

/-! ## NEG, SUB -/

/-- NEG (R246): zero minus the register. -/
def execNeg (n : RegNum) (s : State) : Result :=
  let sum := subFlags (s.dreg n) 0 false
  .next (((s.setD n sum.r).setSr (s.sr.arith sum)).advance (.neg n))

/-- NEGX (R247): zero minus the register and X. -/
def execNegx (n : RegNum) (s : State) : Result :=
  arithX subFlags (s.dreg n) 0 n (.negx n) s

/-- SUB from Dn (R248). -/
def execSubToDn (n : RegNum) (ea : Ea) (s : State) : Result :=
  arithToDn plainSub ea n (.subToDn n ea) s

/-- SUB from memory (R248). -/
def execSubToEa (n : RegNum) (ea : Ea) (s : State) : Result :=
  arithToEa plainSub (s.dreg n) ea (.subToEa n ea) s

/-- SUBA (R249). -/
def execSuba (ea : Ea) (n : RegNum) (s : State) : Result :=
  arithToAn (fun v a => a - v) ea n (.suba ea n) s

/-- SUBI (R250). -/
def execSubi (n : RegNum) (v : Long) (s : State) : Result := arithImm plainSub n v (.subi n v) s

/-- SUBQ (R251): no flag for an address register. -/
def execSubq (q : BitVec 3) (ea : Ea) (s : State) : Result :=
  match ea with
  | .an n =>
    .next ((s.setA n (s.areg n - BitVec.ofNat 32 (quickValue q))).advance (.subq q (.an n)))
  | ea => arithToEa plainSub (BitVec.ofNat 32 (quickValue q)) ea (.subq q ea) s

/-- SUBX (R252). -/
def execSubx (src dst : RegNum) (s : State) : Result :=
  arithX subFlags (s.dreg src) (s.dreg dst) dst (.subx src dst) s

end Sys2Proof.Machine
end

