-- ==== Sys2Proof/Machine/BitManip.lean ====
section
/-! DEFINITION. The bit manipulation instructions (44_bit_manipulation R310 to R315). -/

namespace Sys2Proof.Machine

/-- Long for a data register, byte for every other mode (R310). -/
def bitSize : Ea → Size
  | .dn _ => .long
  | _ => .byte

/-- The bit number, modulo 32 for a data register and modulo 8 otherwise (R310). -/
def bitIndex (ea : Ea) (b : Nat) : Nat :=
  match ea with
  | .dn _ => b % 32
  | _ => b % 8

/-- The value with the one bit set. -/
def oneBit (n : Nat) : Long := 1#32 <<< n

/-- BTST (R310, R312): one read, no write. -/
def bitTestOf (b : Nat) (ea : Ea) (i : Instr) (s : State) : Result :=
  finish <| (readEa ea (bitSize ea) s).andThen fun v s =>
    .ok () ((s.setSr (s.sr.bitTest (v.getLsbD (bitIndex ea b)))).advance i)

/-- BCHG, BCLR, BSET (R310): Z from the old bit, `f` the new value from the bit's mask. -/
def bitModify (f : Long → Long → Long) (b : Nat) (ea : Ea) (i : Instr) (s : State) : Result :=
  finish <| (modifyEa ea (bitSize ea)
      (fun v sr => (f v (oneBit (bitIndex ea b)), sr.bitTest (v.getLsbD (bitIndex ea b)))) s).andThen
    fun _ s => .ok () (s.advance i)

/-- The bit inverted (R313). -/
def flipBit (v m : Long) : Long := v ^^^ m

/-- The bit cleared (R314). -/
def clearBit (v m : Long) : Long := v &&& ~~~ m

/-- The bit set (R315). -/
def setBit (v m : Long) : Long := v ||| m

/-- BTST, dynamic (R312). -/
def execBtstDyn (r : RegNum) (ea : Ea) (s : State) : Result :=
  bitTestOf (s.dreg r).toNat ea (.btstDyn r ea) s

/-- BTST, static (R312). -/
def execBtstImm (b : Byte) (ea : Ea) (s : State) : Result :=
  bitTestOf b.toNat ea (.btstImm b ea) s

/-- BCHG, dynamic (R313). -/
def execBchgDyn (r : RegNum) (ea : Ea) (s : State) : Result :=
  bitModify flipBit (s.dreg r).toNat ea (.bchgDyn r ea) s

/-- BCHG, static (R313). -/
def execBchgImm (b : Byte) (ea : Ea) (s : State) : Result :=
  bitModify flipBit b.toNat ea (.bchgImm b ea) s

/-- BCLR, dynamic (R314). -/
def execBclrDyn (r : RegNum) (ea : Ea) (s : State) : Result :=
  bitModify clearBit (s.dreg r).toNat ea (.bclrDyn r ea) s

/-- BCLR, static (R314). -/
def execBclrImm (b : Byte) (ea : Ea) (s : State) : Result :=
  bitModify clearBit b.toNat ea (.bclrImm b ea) s

/-- BSET, dynamic (R315). -/
def execBsetDyn (r : RegNum) (ea : Ea) (s : State) : Result :=
  bitModify setBit (s.dreg r).toNat ea (.bsetDyn r ea) s

/-- BSET, static (R315). -/
def execBsetImm (b : Byte) (ea : Ea) (s : State) : Result :=
  bitModify setBit b.toNat ea (.bsetImm b ea) s

end Sys2Proof.Machine
end

