-- ==== Sys2Proof/Machine/DataMovement.lean ====
section
/-! DEFINITION. The data movement instructions (40_data_movement R200 to R209). -/

namespace Sys2Proof.Machine

/-- MOVE (40 R201): the source completely, then the destination; the flags follow the data
only if the destination write raises no address error (R200). An invalid index word of either
operand comes first (30_encoding R115). -/
def moveTo (sz : Size) (src dst : Ea) (i : Instr) (s : State) : Result :=
  finish <| (checkIndex dst s).andThen fun _ s =>
    (readEa src sz s).andThen fun v s =>
      let moved := movedValue src dst sz v s
      (writeEa dst sz moved.1 moved.2).andThen fun _ s =>
        .ok () ((s.setSr (s.sr.logic moved.1 sz)).advance i)

/-- MOVE.B (R201). -/
def execMoveB (src dst : Ea) (s : State) : Result := moveTo .byte src dst (.moveB src dst) s

/-- MOVE.W (R201). -/
def execMoveW (src dst : Ea) (s : State) : Result := moveTo .word src dst (.moveW src dst) s

/-- MOVE.L (R201). -/
def execMoveL (src dst : Ea) (s : State) : Result := moveTo .long src dst (.moveL src dst) s

/-- MOVEA (R202): all 32 bits, sign-extended from a word; no flag. -/
def moveAddress (sz : Size) (src : Ea) (n : RegNum) (i : Instr) (s : State) : Result :=
  finish <| (readEa src sz s).andThen fun v s => .ok () ((s.setA n (signExtend v sz)).advance i)

/-- MOVEA.W (R202). -/
def execMoveaW (src : Ea) (n : RegNum) (s : State) : Result :=
  moveAddress .word src n (.moveaW src n) s

/-- MOVEA.L (R202). -/
def execMoveaL (src : Ea) (n : RegNum) (s : State) : Result :=
  moveAddress .long src n (.moveaL src n) s

/-- MOVEQ (R204). -/
def execMoveq (v : Byte) (n : RegNum) (s : State) : Result :=
  .next (((s.setD n (v.signExtend 32)).setSr (s.sr.logic (v.signExtend 32) .long)).advance
    (.moveq v n))

/-- LEA (R205): no memory access, no alignment check, no flag. -/
def execLea (ea : Ea) (n : RegNum) (s : State) : Result :=
  finish <| (addrEa ea s).andThen fun a s => .ok () ((s.setA n a).advance (.lea ea n))

/-- PEA (R206): the address is formed before SP moves. -/
def execPea (ea : Ea) (s : State) : Result :=
  finish <| (addrEa ea s).andThen fun a s =>
    (push a s).andThen fun _ s => .ok () (s.advance (.pea ea))

/-- The sixteen registers in MOVEM's order (R207). -/
def allRegs : List Reg :=
  [.d 0, .d 1, .d 2, .d 3, .d 4, .d 5, .d 6, .d 7, .a 0, .a 1, .a 2, .a 3, .a 4, .a 5, .a 6, .a 7]

/-- The registers a mask selects, in MOVEM's order (R207). -/
def selected (mask : Word) : List Reg := allRegs.filter fun r => mask.getLsbD r.code

/-- Registers to consecutive long words (R207). -/
def storeRegs : List Reg → Long → State → Eff Unit
  | [], _, s => .ok () s
  | r :: rs, a, s => (writeMem a .long (s.reg r) s).andThen fun _ s => storeRegs rs (a + 4) s

/-- Consecutive long words to registers; those loaded before a fault stay loaded (R207). -/
def loadRegs : List Reg → Long → State → Eff Unit
  | [], _, s => .ok () s
  | r :: rs, a, s => (readMem a .long s).andThen fun v s => loadRegs rs (a + 4) (s.setReg r v)

/-- MOVEM, registers to memory (R207). -/
def execMovemStore (mask : Word) (ea : Ea) (s : State) : Result :=
  finish <| (addrEa ea s).andThen fun a s =>
    (storeRegs (selected mask) a s).andThen fun _ s => .ok () (s.advance (.movemStore mask ea))

/-- MOVEM, memory to registers (R207). -/
def execMovemLoad (mask : Word) (ea : Ea) (s : State) : Result :=
  finish <| (addrEa ea s).andThen fun a s =>
    (loadRegs (selected mask) a s).andThen fun _ s => .ok () (s.advance (.movemLoad mask ea))

/-- LINK (R208); LINK A7 is refused. -/
def execLink (n : RegNum) (d16 : Word) (s : State) : Result :=
  finish <|
    if n = 7 then .refuse .linkA7
    else (push (s.areg n) s).andThen fun _ s =>
      .ok () (((s.setA n s.sp).setSp (s.sp + d16.signExtend 32)).advance (.link n d16))

/-- UNLK (R209); UNLK A7 is refused. If the read faults SP has been replaced. -/
def execUnlk (n : RegNum) (s : State) : Result :=
  finish <|
    if n = 7 then .refuse .unlkA7
    else (readMem (s.areg n) .long (s.setSp (s.areg n))).andThen fun v s =>
      .ok () (((s.setA n v).setSp (s.sp + 4)).advance (.unlk n))

end Sys2Proof.Machine
end

