-- ==== Sys2Proof/Machine/Logical.lean ====
section
/-! DEFINITION. The logical instructions (42_logical R270 to R277). -/

namespace Sys2Proof.Machine

/-- `<ea> op Dn → Dn` (R270). -/
def logicToDn (f : Long → Long → Long) (ea : Ea) (n : RegNum) (i : Instr) (s : State) : Result :=
  finish <| (readEa ea .long s).andThen fun v s =>
    let r := f v (s.dreg n)
    .ok () (((s.setD n r).setSr (s.sr.logic r .long)).advance i)

/-- `Dn op <ea> → <ea>`, read once and written once (R270). -/
def logicToEa (f : Long → Long → Long) (n : RegNum) (ea : Ea) (i : Instr) (s : State) : Result :=
  let v := s.dreg n
  finish <| (modifyEa ea .long (fun d sr => (f v d, sr.logic (f v d) .long)) s).andThen fun _ s =>
    .ok () (s.advance i)

/-- A data register replaced by `r` (R270). -/
def logicReg (r : Long) (n : RegNum) (i : Instr) (s : State) : Result :=
  .next (((s.setD n r).setSr (s.sr.logic r .long)).advance i)

/-- AND to Dn (R271). -/
def execAndToDn (n : RegNum) (ea : Ea) (s : State) : Result :=
  logicToDn (fun v d => v &&& d) ea n (.andToDn n ea) s

/-- AND to memory (R271). -/
def execAndToEa (n : RegNum) (ea : Ea) (s : State) : Result :=
  logicToEa (fun v d => v &&& d) n ea (.andToEa n ea) s

/-- ANDI (R272). -/
def execAndi (n : RegNum) (v : Long) (s : State) : Result :=
  logicReg (v &&& s.dreg n) n (.andi n v) s

/-- EOR (R273). -/
def execEor (n : RegNum) (ea : Ea) (s : State) : Result :=
  logicToEa (fun v d => v ^^^ d) n ea (.eor n ea) s

/-- EORI (R274). -/
def execEori (n : RegNum) (v : Long) (s : State) : Result :=
  logicReg (v ^^^ s.dreg n) n (.eori n v) s

/-- NOT (R275). -/
def execNot (n : RegNum) (s : State) : Result := logicReg (~~~ s.dreg n) n (.not n) s

/-- OR to Dn (R276). -/
def execOrToDn (n : RegNum) (ea : Ea) (s : State) : Result :=
  logicToDn (fun v d => v ||| d) ea n (.orToDn n ea) s

/-- OR to memory (R276). -/
def execOrToEa (n : RegNum) (ea : Ea) (s : State) : Result :=
  logicToEa (fun v d => v ||| d) n ea (.orToEa n ea) s

/-- ORI (R277). -/
def execOri (n : RegNum) (v : Long) (s : State) : Result :=
  logicReg (v ||| s.dreg n) n (.ori n v) s

end Sys2Proof.Machine
end

