-- ==== Sys2Proof/Machine/ProgramControl.lean ====
section
/-! DEFINITION. The program control instructions (45_program_control R330 to R342). -/

namespace Sys2Proof.Machine

/-! ## Branches -/

/-- Bcc (R331): a branch that is not taken never raises the address error of R330. -/
def branchIf (cond : Cond) (d : Disp) (i : Instr) (s : State) : Result :=
  finish <|
    if condHolds cond s.sr then
      (checkTarget (branchTarget d s) s).andThen fun _ s => .ok () (s.setPc (branchTarget d s))
    else .ok () (s.advance i)

/-- BRA (R332). -/
def execBra (d : Disp) (s : State) : Result :=
  finish <| (checkTarget (branchTarget d s) s).andThen fun _ s =>
    .ok () (s.setPc (branchTarget d s))

/-- The push of the return address and the transfer (R333, R335): nothing is pushed for an odd
target. -/
def callTo (t : Long) (i : Instr) (s : State) : Eff Unit :=
  (checkTarget t s).andThen fun _ s =>
    (push (s.pc + i.ilen) s).andThen fun _ s => .ok () (s.setPc t)

/-- BSR (R333). -/
def execBsr (d : Disp) (s : State) : Result := finish (callTo (branchTarget d s) (.bsr d) s)

/-- BHI (R331). -/
def execBhi (d : Disp) (s : State) : Result := branchIf .hi d (.bhi d) s

/-- BLS (R331). -/
def execBls (d : Disp) (s : State) : Result := branchIf .ls d (.bls d) s

/-- BCC (R331). -/
def execBcc (d : Disp) (s : State) : Result := branchIf .cc d (.bcc d) s

/-- BCS (R331). -/
def execBcs (d : Disp) (s : State) : Result := branchIf .cs d (.bcs d) s

/-- BNE (R331). -/
def execBne (d : Disp) (s : State) : Result := branchIf .ne d (.bne d) s

/-- BEQ (R331). -/
def execBeq (d : Disp) (s : State) : Result := branchIf .eq d (.beq d) s

/-- BVC (R331). -/
def execBvc (d : Disp) (s : State) : Result := branchIf .vc d (.bvc d) s

/-- BVS (R331). -/
def execBvs (d : Disp) (s : State) : Result := branchIf .vs d (.bvs d) s

/-- BPL (R331). -/
def execBpl (d : Disp) (s : State) : Result := branchIf .pl d (.bpl d) s

/-- BMI (R331). -/
def execBmi (d : Disp) (s : State) : Result := branchIf .mi d (.bmi d) s

/-- BGE (R331). -/
def execBge (d : Disp) (s : State) : Result := branchIf .ge d (.bge d) s

/-- BLT (R331). -/
def execBlt (d : Disp) (s : State) : Result := branchIf .lt d (.blt d) s

/-- BGT (R331). -/
def execBgt (d : Disp) (s : State) : Result := branchIf .gt d (.bgt d) s

/-- BLE (R331). -/
def execBle (d : Disp) (s : State) : Result := branchIf .le d (.ble d) s

/-! ## Jumps and returns -/

/-- JMP (R334). -/
def execJmp (ea : Ea) (s : State) : Result :=
  finish <| (addrEa ea s).andThen fun t s =>
    (checkTarget t s).andThen fun _ s => .ok () (s.setPc t)

/-- JSR (R335): the target is formed before SP moves. -/
def execJsr (ea : Ea) (s : State) : Result :=
  finish <| (addrEa ea s).andThen fun t s => callTo t (.jsr ea) s

/-- RTS (R337): SP does not move if the read faults or the target is odd. -/
def execRts (s : State) : Result :=
  finish <| (readMem s.sp .long s).andThen fun t s =>
    (checkTarget t s).andThen fun _ s => .ok () ((s.setSp (s.sp + 4)).setPc t)

/-! ## NOP, Scc, TRAPF, TST -/

/-- NOP (R336): collects a pending write error, synchronises. -/
def execNop (s : State) : Result :=
  finish <| (drain s).andThen fun _ s => .ok () (s.sync.advance .nop)

/-- Scc (R338): the low byte of Dn. -/
def execScc (c : Cond) (n : RegNum) (s : State) : Result :=
  .next ((s.setDSized n .byte (if condHolds c s.sr then 0xFF else 0)).advance (.scc c n))

/-- TRAPF (R341): nothing but the length. -/
def execTrapf (o : TrapfOperand) (s : State) : Result := .next (s.advance (.trapf o))

/-- TRAPF.W (R341). -/
def execTrapfW (o : TrapfOperand) (s : State) : Result := .next (s.advance (.trapfW o))

/-- TRAPF.L (R341). -/
def execTrapfL (o : TrapfOperand) (s : State) : Result := .next (s.advance (.trapfL o))

/-- TST (R342). -/
def testOperand (sz : Size) (ea : Ea) (i : Instr) (s : State) : Result :=
  finish <| (readEa ea sz s).andThen fun v s => .ok () ((s.setSr (s.sr.logic v sz)).advance i)

/-- TST.B (R342). -/
def execTstB (ea : Ea) (s : State) : Result := testOperand .byte ea (.tstB ea) s

/-- TST.W (R342). -/
def execTstW (ea : Ea) (s : State) : Result := testOperand .word ea (.tstW ea) s

/-- TST.L (R342). -/
def execTstL (ea : Ea) (s : State) : Result := testOperand .long ea (.tstL ea) s

end Sys2Proof.Machine
end

