-- ==== Sys2Proof/Machine/Shift.lean ====
section
/-! DEFINITION. The shift instructions and SWAP (43_shift R290 to R296). -/

namespace Sys2Proof.Machine

/-- A shift of Dn by `c` positions (R290). -/
def shiftReg (op : ShiftOp) (c : Nat) (n : RegNum) (i : Instr) (s : State) : Result :=
  let r := op.times c (s.dreg n) false
  .next (((s.setD n r.1).setSr (s.sr.shift c r.1 r.2)).advance i)

/-- The register count, modulo 64 (R290). -/
def countOf (c : RegNum) (s : State) : Nat := (s.dreg c).toNat % 64

/-- ASR by an immediate count (R293). -/
def execAsrImm (q : BitVec 3) (n : RegNum) (s : State) : Result :=
  shiftReg .asr (quickValue q) n (.asrImm q n) s

/-- ASR by a register count (R293). -/
def execAsrReg (c n : RegNum) (s : State) : Result := shiftReg .asr (countOf c s) n (.asrReg c n) s

/-- ASL by an immediate count (R292). -/
def execAslImm (q : BitVec 3) (n : RegNum) (s : State) : Result :=
  shiftReg .asl (quickValue q) n (.aslImm q n) s

/-- ASL by a register count (R292). -/
def execAslReg (c n : RegNum) (s : State) : Result := shiftReg .asl (countOf c s) n (.aslReg c n) s

/-- LSR by an immediate count (R295). -/
def execLsrImm (q : BitVec 3) (n : RegNum) (s : State) : Result :=
  shiftReg .lsr (quickValue q) n (.lsrImm q n) s

/-- LSR by a register count (R295). -/
def execLsrReg (c n : RegNum) (s : State) : Result := shiftReg .lsr (countOf c s) n (.lsrReg c n) s

/-- LSL by an immediate count (R294). -/
def execLslImm (q : BitVec 3) (n : RegNum) (s : State) : Result :=
  shiftReg .lsl (quickValue q) n (.lslImm q n) s

/-- LSL by a register count (R294). -/
def execLslReg (c n : RegNum) (s : State) : Result := shiftReg .lsl (countOf c s) n (.lslReg c n) s

/-- SWAP (R296): the halves exchanged, the flags by the 32-bit result. -/
def execSwap (n : RegNum) (s : State) : Result :=
  let r : Long := (s.dreg n).extractLsb' 0 16 ++ (s.dreg n).extractLsb' 16 16
  .next (((s.setD n r).setSr (s.sr.logic r .long)).advance (.swap n))

end Sys2Proof.Machine
end

