-- ==== Sys2Proof/Machine/SystemControl.lean ====
section
/-! DEFINITION. The system control instructions (46_system_control R360 to R374), and the
operation words that raise an exception by decoding (60_exceptions R423 to R425). Each
instruction of 46 is a synchronising event (R374). -/

namespace Sys2Proof.Machine

/-! ## SR and CCR -/

/-- MOVE from SR (R361). -/
def execMoveFromSr (n : RegNum) (s : State) : Result :=
  finish <| (supervisorOnly s).andThen fun _ s =>
    .ok () ((s.setDSized n .word (s.sr.toWord.setWidth 32)).sync.advance (.moveFromSr n))

/-- MOVE to SR (R362). -/
def execMoveToSr (ea : Ea) (s : State) : Result :=
  finish <| (supervisorOnly s).andThen fun _ s =>
    (readEa ea .word s).andThen fun v s =>
      .ok () ((s.setSr (SR.ofWord (v.setWidth 16))).sync.advance (.moveToSr ea))

/-- MOVE from CCR (R363). -/
def execMoveFromCcr (n : RegNum) (s : State) : Result :=
  .next ((s.setDSized n .word (s.sr.ccrWord.setWidth 32)).sync.advance (.moveFromCcr n))

/-- MOVE to CCR (R364). -/
def execMoveToCcr (ea : Ea) (s : State) : Result :=
  finish <| (readEa ea .word s).andThen fun v s =>
    .ok () ((s.setSr (s.sr.setCcr (v.setWidth 16))).sync.advance (.moveToCcr ea))

/-! ## MOVEC -/

/-- The register with this code, VBR apart (10_state R35). -/
def ctrlRegOf (rc : BitVec 12) : Option CtrlReg :=
  match rc.toNat with
  | 0x002 => some .cacr
  | 0x003 => some .tcr
  | 0x004 => some .acr2
  | 0x005 => some .acr3
  | 0x006 => some .acr0
  | 0x007 => some .acr1
  | 0xC00 => some .rombar
  | 0xC04 => some .rambar0
  | 0xC05 => some .rambar1
  | 0xC0F => some .mbar
  | _ => none

/-- One of the control registers replaced. -/
def setCtrl (c : CtrlReg) (v : Long) (r : ControlRegs) : ControlRegs :=
  match c with
  | .cacr => { r with cacr := v }
  | .tcr => { r with tcr := v }
  | .acr2 => { r with acr2 := v }
  | .acr3 => { r with acr3 := v }
  | .acr0 => { r with acr0 := v }
  | .acr1 => { r with acr1 := v }
  | .rombar => { r with rombar := v }
  | .rambar0 => { r with rambar0 := v }
  | .rambar1 => { r with rambar1 := v }
  | .mbar => { r with mbar := v }

/-- A write of an implemented register: the value is kept and the platform supplies the memory map
and the contents of memory that follow from it, of which nothing is known (R365, log 16). -/
def writeCtrl (c : CtrlReg) (v : Long) (s : State) : State :=
  let platform := Config.ctrlWrite c v s.ctrl s.memoryMap s.mem
  { s with
    ctrl := setCtrl c v s.ctrl
    memoryMap := platform.map
    mem := Memory.ofCells platform.cells }

/-- `VBR <- v`: bits 31-20 (R365, 10_state R34). -/
def writeVbr (v : Long) (s : State) : State := { s with vbr := v.extractLsb' 20 12 }

/-- The effect of MOVEC by the code (R365). A hang leaves only reset (70_reset R474). -/
def movecEffect (rc : BitVec 12) (v : Long) (s : State) : Eff Unit :=
  if rc = 0x801 then .ok () (writeVbr v s)
  else
    match ctrlRegOf rc with
    | none => .refuse (.movecUndefined rc)
    | some c =>
      if s.cfg.implementedCtrl.contains c then .ok () (writeCtrl c v s)
      else if c = .mbar then
        match s.cfg.mbarUnimplemented with
        | .hang => .ok () { s with run := .haltedFault }
        | .accessError => .raise (.accessWrite 0b1000) s
      else .ok () s

/-- MOVEC (R365). -/
def execMovec (r : Reg) (rc : BitVec 12) (s : State) : Result :=
  finish <| (supervisorOnly s).andThen fun _ s =>
    (movecEffect rc (s.reg r) s).andThen fun _ s => .ok () (s.sync.advance (.movec r rc))

/-! ## RTE, STOP, HALT -/

/-- The format field of a frame is one of 4, 5, 6, 7 (R366). -/
def formatValid (w0 : Long) : Bool := w0.extractLsb' 30 2 == 1#2

/-- RTE (R366): both reads come before any register changes. -/
def execRte (s : State) : Result :=
  finish <| (supervisorOnly s).andThen fun _ s =>
    (readMem s.sp .long s).andThen fun w0 s =>
      if formatValid w0 then
        (readMem (s.sp + 4) .long s).andThen fun w1 s =>
          (checkTarget w1 s).andThen fun _ s => .ok () (returnFromException w0 w1 s).sync
      else .raise .format s

/-- STOP (R367): the trace bit before it decides between the trace exception and the stopped
state. -/
def execStop (v : Word) (s : State) : Result :=
  finish <| (supervisorOnly s).andThen fun _ s =>
    (drain s).andThen fun _ s =>
      let s' := (s.setSr (SR.ofWord v)).sync.advance (.stop v)
      if s.sr.t then .raise .trace s' else .ok () { s' with run := .stopped }

/-- HALT (R368). -/
def execHalt (s : State) : Result :=
  finish <| (supervisorOnly s).andThen fun _ s =>
    (drain s).andThen fun _ s =>
      .ok () { (s.emit .halt).sync.advance .halt with run := .haltedByInstruction }

/-! ## The debug instructions -/

/-- PULSE and WDDATA are privileged by parameter (R360). -/
def pulsePrivilege (s : State) : Eff Unit :=
  if s.cfg.pulseWddataPrivileged then supervisorOnly s else .ok () s

/-- PULSE (R369). -/
def execPulse (s : State) : Result :=
  finish <| (pulsePrivilege s).andThen fun _ s => .ok () ((s.emit .pulse).sync.advance .pulse)

/-- WDDATA (R370). -/
def writeDdata (sz : Size) (ea : Ea) (i : Instr) (s : State) : Result :=
  finish <| (pulsePrivilege s).andThen fun _ s =>
    (readEa ea sz s).andThen fun v s =>
      .ok () (((s.emit .pulse).emit (.ddata sz v)).sync.advance i)

/-- WDDATA.B (R370). -/
def execWddataB (ea : Ea) (s : State) : Result := writeDdata .byte ea (.wddataB ea) s

/-- WDDATA.W (R370). -/
def execWddataW (ea : Ea) (s : State) : Result := writeDdata .word ea (.wddataW ea) s

/-- WDDATA.L (R370). -/
def execWddataL (ea : Ea) (s : State) : Result := writeDdata .long ea (.wddataL ea) s

/-- WDEBUG (R371): undefined at an address that is no multiple of 4. -/
def execWdebug (ea : Ea) (s : State) : Result :=
  finish <| (supervisorOnly s).andThen fun _ s =>
    (addrEa ea s).andThen fun a s =>
      if misaligned a .long then .refuse .wdebugMisaligned
      else
        (readMem a .long s).andThen fun c0 s =>
          (readMem (a + 4) .long s).andThen fun c1 s =>
            .ok () ((s.emit (.wdebug c0 c1)).sync.advance (.wdebug ea))

/-! ## Instructions whose effect is an exception -/

/-- TRAP (R373). -/
def execTrap (v : BitVec 4) (s : State) : Result := finish (.raise (.trap v) s)

/-- The operation word $4AFC (60_exceptions R423). -/
def execIllegal4AFC (s : State) : Result := finish (.raise .illegal s)

/-- The operation word $0000 (60_exceptions R423). -/
def execIllegal0000 (s : State) : Result := finish (.raise .illegal s)

/-- An operation word of line A (60_exceptions R424). -/
def execLineA (_x : BitVec 12) (s : State) : Result := finish (.raise .lineA s)

/-- An operation word of line F that no row admits (60_exceptions R425). -/
def execLineF (_x : BitVec 12) (s : State) : Result := finish (.raise .lineF s)

end Sys2Proof.Machine
end

