-- ==== Sys2Proof/Machine/Dispatch.lean ====
section
/-! DEFINITION. One arm per instruction, each a call of its meaning. -/

namespace Sys2Proof.Machine

/-- The meaning of an instruction. -/
def exec (i : Instr) (s : State) : Host.Outcome State Fault Refusal :=
  match i with
  | .ori n v => Sys2Proof.Machine.execOri n v s
  | .andi n v => Sys2Proof.Machine.execAndi n v s
  | .subi n v => Sys2Proof.Machine.execSubi n v s
  | .addi n v => Sys2Proof.Machine.execAddi n v s
  | .eori n v => Sys2Proof.Machine.execEori n v s
  | .cmpi n v => Sys2Proof.Machine.execCmpi n v s
  | .btstDyn r ea => Sys2Proof.Machine.execBtstDyn r ea s
  | .btstImm b ea => Sys2Proof.Machine.execBtstImm b ea s
  | .bchgDyn r ea => Sys2Proof.Machine.execBchgDyn r ea s
  | .bchgImm b ea => Sys2Proof.Machine.execBchgImm b ea s
  | .bclrDyn r ea => Sys2Proof.Machine.execBclrDyn r ea s
  | .bclrImm b ea => Sys2Proof.Machine.execBclrImm b ea s
  | .bsetDyn r ea => Sys2Proof.Machine.execBsetDyn r ea s
  | .bsetImm b ea => Sys2Proof.Machine.execBsetImm b ea s
  | .moveB src dst => Sys2Proof.Machine.execMoveB src dst s
  | .moveW src dst => Sys2Proof.Machine.execMoveW src dst s
  | .moveL src dst => Sys2Proof.Machine.execMoveL src dst s
  | .moveaW src n => Sys2Proof.Machine.execMoveaW src n s
  | .moveaL src n => Sys2Proof.Machine.execMoveaL src n s
  | .negx n => Sys2Proof.Machine.execNegx n s
  | .moveFromSr n => Sys2Proof.Machine.execMoveFromSr n s
  | .clrB ea => Sys2Proof.Machine.execClrB ea s
  | .clrW ea => Sys2Proof.Machine.execClrW ea s
  | .clrL ea => Sys2Proof.Machine.execClrL ea s
  | .moveFromCcr n => Sys2Proof.Machine.execMoveFromCcr n s
  | .neg n => Sys2Proof.Machine.execNeg n s
  | .moveToCcr ea => Sys2Proof.Machine.execMoveToCcr ea s
  | .not n => Sys2Proof.Machine.execNot n s
  | .moveToSr ea => Sys2Proof.Machine.execMoveToSr ea s
  | .extW n => Sys2Proof.Machine.execExtW n s
  | .extL n => Sys2Proof.Machine.execExtL n s
  | .extbL n => Sys2Proof.Machine.execExtbL n s
  | .swap n => Sys2Proof.Machine.execSwap n s
  | .pea ea => Sys2Proof.Machine.execPea ea s
  | .movemStore mask ea => Sys2Proof.Machine.execMovemStore mask ea s
  | .movemLoad mask ea => Sys2Proof.Machine.execMovemLoad mask ea s
  | .tstB ea => Sys2Proof.Machine.execTstB ea s
  | .tstW ea => Sys2Proof.Machine.execTstW ea s
  | .tstL ea => Sys2Proof.Machine.execTstL ea s
  | .halt => Sys2Proof.Machine.execHalt s
  | .pulse => Sys2Proof.Machine.execPulse s
  | .illegal4AFC => Sys2Proof.Machine.execIllegal4AFC s
  | .muluL n ea => Sys2Proof.Machine.execMuluL n ea s
  | .mulsL n ea => Sys2Proof.Machine.execMulsL n ea s
  | .trap v => Sys2Proof.Machine.execTrap v s
  | .link n d16 => Sys2Proof.Machine.execLink n d16 s
  | .unlk n => Sys2Proof.Machine.execUnlk n s
  | .nop => Sys2Proof.Machine.execNop s
  | .stop v => Sys2Proof.Machine.execStop v s
  | .rte => Sys2Proof.Machine.execRte s
  | .rts => Sys2Proof.Machine.execRts s
  | .movec r rc => Sys2Proof.Machine.execMovec r rc s
  | .jsr ea => Sys2Proof.Machine.execJsr ea s
  | .jmp ea => Sys2Proof.Machine.execJmp ea s
  | .lea ea n => Sys2Proof.Machine.execLea ea n s
  | .addq q ea => Sys2Proof.Machine.execAddq q ea s
  | .subq q ea => Sys2Proof.Machine.execSubq q ea s
  | .scc c n => Sys2Proof.Machine.execScc c n s
  | .trapf o => Sys2Proof.Machine.execTrapf o s
  | .trapfW o => Sys2Proof.Machine.execTrapfW o s
  | .trapfL o => Sys2Proof.Machine.execTrapfL o s
  | .bra d => Sys2Proof.Machine.execBra d s
  | .bsr d => Sys2Proof.Machine.execBsr d s
  | .bhi d => Sys2Proof.Machine.execBhi d s
  | .bls d => Sys2Proof.Machine.execBls d s
  | .bcc d => Sys2Proof.Machine.execBcc d s
  | .bcs d => Sys2Proof.Machine.execBcs d s
  | .bne d => Sys2Proof.Machine.execBne d s
  | .beq d => Sys2Proof.Machine.execBeq d s
  | .bvc d => Sys2Proof.Machine.execBvc d s
  | .bvs d => Sys2Proof.Machine.execBvs d s
  | .bpl d => Sys2Proof.Machine.execBpl d s
  | .bmi d => Sys2Proof.Machine.execBmi d s
  | .bge d => Sys2Proof.Machine.execBge d s
  | .blt d => Sys2Proof.Machine.execBlt d s
  | .bgt d => Sys2Proof.Machine.execBgt d s
  | .ble d => Sys2Proof.Machine.execBle d s
  | .moveq v n => Sys2Proof.Machine.execMoveq v n s
  | .orToDn n ea => Sys2Proof.Machine.execOrToDn n ea s
  | .orToEa n ea => Sys2Proof.Machine.execOrToEa n ea s
  | .subToDn n ea => Sys2Proof.Machine.execSubToDn n ea s
  | .subToEa n ea => Sys2Proof.Machine.execSubToEa n ea s
  | .suba ea n => Sys2Proof.Machine.execSuba ea n s
  | .subx src dst => Sys2Proof.Machine.execSubx src dst s
  | .cmp ea n => Sys2Proof.Machine.execCmp ea n s
  | .cmpa ea n => Sys2Proof.Machine.execCmpa ea n s
  | .eor n ea => Sys2Proof.Machine.execEor n ea s
  | .andToDn n ea => Sys2Proof.Machine.execAndToDn n ea s
  | .andToEa n ea => Sys2Proof.Machine.execAndToEa n ea s
  | .muluW ea n => Sys2Proof.Machine.execMuluW ea n s
  | .mulsW ea n => Sys2Proof.Machine.execMulsW ea n s
  | .addToDn n ea => Sys2Proof.Machine.execAddToDn n ea s
  | .addToEa n ea => Sys2Proof.Machine.execAddToEa n ea s
  | .adda ea n => Sys2Proof.Machine.execAdda ea n s
  | .addx src dst => Sys2Proof.Machine.execAddx src dst s
  | .asrImm q n => Sys2Proof.Machine.execAsrImm q n s
  | .asrReg c n => Sys2Proof.Machine.execAsrReg c n s
  | .aslImm q n => Sys2Proof.Machine.execAslImm q n s
  | .aslReg c n => Sys2Proof.Machine.execAslReg c n s
  | .lsrImm q n => Sys2Proof.Machine.execLsrImm q n s
  | .lsrReg c n => Sys2Proof.Machine.execLsrReg c n s
  | .lslImm q n => Sys2Proof.Machine.execLslImm q n s
  | .lslReg c n => Sys2Proof.Machine.execLslReg c n s
  | .wddataB ea => Sys2Proof.Machine.execWddataB ea s
  | .wddataW ea => Sys2Proof.Machine.execWddataW ea s
  | .wddataL ea => Sys2Proof.Machine.execWddataL ea s
  | .wdebug ea => Sys2Proof.Machine.execWdebug ea s
  | .illegal0000 => Sys2Proof.Machine.execIllegal0000 s
  | .lineA x => Sys2Proof.Machine.execLineA x s
  | .lineF x => Sys2Proof.Machine.execLineF x s

end Sys2Proof.Machine
end

