-- ==== Sys2Proof/Machine/Fetch.lean ====
section
/-! DEFINITION. Fetching an instruction (20_memory R63, R66, R81, 60_exceptions R450 steps 5
to 7). -/

namespace Sys2Proof.Machine

/-- The byte at `a` before the latest `k` of the remembered stores. -/
def byteBefore (k : Nat) (a : Nat) (s : State) : Byte :=
  (s.stale.take k).foldl (fun v replaced => (lookup a replaced).getD v) (s.mem.byte a)

/-- One of the remembered stores changed the byte at `a`. -/
def freshlyStored (a : Nat) (s : State) : Bool := s.stale.any fun r => (lookup a r).isSome

/-- The word at `a`, the high byte first, before the latest `k` of the remembered stores. -/
def wordBefore (k : Nat) (a : Long) (s : State) : Word :=
  byteBefore k a.toNat s ++ byteBefore k (a + 1).toNat s

/-- `Fetch16` (20_memory R63). A word stored since the last synchronising event is seen as it
was before some of those stores, a free number of them (20_memory R81, log 10). -/
def fetchWord (a : Long) (s : State) : Eff Word :=
  if s.canFetch a then
    if freshlyStored a.toNat s || freshlyStored (a + 1).toNat s then
      .ok (wordBefore (Config.freeDepth s.draws) a s) s.drawn
    else .ok (wordBefore 0 a s) s
  else .raise .accessFetch s

/-- `n` words at rising addresses. -/
def fetchWords : Nat → Long → State → Eff (List Word)
  | 0, _, s => .ok [] s
  | n + 1, a, s => (fetchWord a s).andThen fun w s =>
    (fetchWords n (a + 2) s).andThen fun ws s => .ok (w :: ws) s

/-- The instruction at the program counter, or why there is none: the operation word, then
exactly the extension words that it asks for. -/
def fetchInstr (s : State) : Eff (Except Reject Instr) :=
  (fetchWord s.pc s).andThen fun w s =>
    match decodeOp s.cfg w with
    | .error r => .ok (.error r) s
    | .ok form => (fetchWords form.words (s.pc + 2) s).andThen fun ws s =>
      match form.complete ws with
      | .ok (i, _) => .ok (.ok i) s
      | .error r => .ok (.error r) s

/-- What becomes of words that are no instruction (30_encoding R106, R107). The privilege check
comes before the second word of WDEBUG is looked at (46_system_control R360, 60_exceptions R450
step 8). -/
def rejected (r : Reject) (s : State) : Result :=
  match r with
  | .undefinedOpword w =>
    if s.cfg.undefinedOpwordTraps then .next (raiseExc .illegal s)
    else .refused (.undefinedOpword w)
  | .reservedExtension w => .refused (.reservedExtension w)
  | .reservedPrivileged w =>
    if s.sr.s then .refused (.reservedExtension w) else .next (raiseExc .privilege s)
  | .lineFElsewhere w => .refused (.lineFElsewhere w)
  | .truncated => .refused .truncated

end Sys2Proof.Machine
end

