-- ==== Sys2Proof/Machine/Cycle.lean ====
section
/-! DEFINITION. One step of the machine: the input, the instruction at the program counter, and
the boundary after it (60_exceptions R450, log 7). -/

namespace Sys2Proof.Machine

/-- Steps 4 to 9 of 60_exceptions R450: fetch, decode, execute. -/
def runInstr (s : State) : Result :=
  match fetchInstr (beginInstr s) with
  | .raise x s => .next (raiseExc x s)
  | .refuse r => .refused r
  | .ok (.error r) s => rejected r s
  | .ok (.ok i) s => exec i s

/-- A running machine's instruction, in place of which a signalled write error is taken. -/
def runOrReport (inp : EnvInput) (s : State) : Result :=
  match signalledError inp s with
  | some (s, p) => .next (raiseExc (.accessWrite p.fs) s)
  | none => runInstr s

/-- What a run state does in a step without reset (70_reset R474). -/
def advanceMachine (inp : EnvInput) (s : State) : Result :=
  match s.run with
  | .running => afterInstr inp (runOrReport inp s)
  | .stopped => .next (boundary inp s)
  | .haltedByInstruction =>
    if inp.go && s.cfg.hasDebug then .next (boundary inp { s with run := .running }) else .next s
  | .haltedFault => .next s

/-- One step; reset comes before everything else (70_reset R470). -/
def cycle (s : State) : Result :=
  if s.input.reset then .next (takeReset s.input.irqLevel (takeInput s))
  else advanceMachine s.input (takeInput s)

/-- Bytes put into memory from outside, from `a` up. -/
def placeBytes (m : Memory) (a : Long) : List Byte → Memory
  | [] => m
  | b :: bs => placeBytes (m.setByte a.toNat b) (a + 1) bs

/-- An instruction of the opcode table put at the program counter, visible to the next fetch. -/
def placeInstr (s : State) (nbits w : Nat) : State :=
  { s with mem := placeBytes s.mem s.pc (tableBytes nbits w), stale := [] }

end Sys2Proof.Machine
end

