-- ==== Sys2Proof/Machine/Step.lean ====
section
/-! DEFINITION. The step function, and the placement of an instruction where it fetches. -/

namespace Sys2Proof.Machine

/-- One step of the machine (60_exceptions R450): `cycle`. -/
def step (s : State) : Host.Outcome State Fault Refusal := cycle s

/-- `s` with an instruction of the opcode table stored at the program counter: it stands for
the load of a program from outside (log 3). -/
def State.withFetchWord (s : State) (nbits w : Nat) : State := placeInstr s nbits w

end Sys2Proof.Machine
end

