-- ==== Sys2Proof/Safety.lean ====
section
/-! DEFINITION. The terms in which the statements about this machine speak: operands described
without the machine's own operations, flags by exact arithmetic, the state after exception
entry, and what holds between steps. -/

namespace Sys2Proof.Machine

/-! ## Accesses that complete -/

/-- On a multiple of its size, or on a chip with the misalignment module (20_memory R64, R65). -/
def aligned (a : Long) (sz : Size) (s : State) : Bool :=
  s.cfg.hasMisalign || a.toNat % sz.bytes == 0

/-- A read of `sz` at `a` completes in the mode of `s`. -/
def readable (a : Long) (sz : Size) (s : State) : Bool :=
  aligned a sz s && (byteAddrs a sz).all fun b => (answersAt s.memoryMap s.sr.s b).read

/-- What a read that does not complete raises, misalignment first (20_memory R61). -/
def readFault (a : Long) (sz : Size) (s : State) : Exc :=
  if aligned a sz s then .accessRead else .addressError .misalignedRead

/-- A write of `sz` at `a` completes in the mode of `s`. -/
def writable (a : Long) (sz : Size) (s : State) : Bool :=
  aligned a sz s && (byteAddrs a sz).all fun b => (answersAt s.memoryMap s.sr.s b).write == .ok

/-- Even: the target of a transfer of control (45_program_control R330). -/
def even (t : Long) : Bool := t.toNat % 2 == 0

/-! ## Operands -/

/-- The address of an operand in memory, before any register is updated (30_encoding R111 to
R119); `none` for a register or an immediate. -/
def eaAddr (ea : Ea) (sz : Size) (s : State) : Option Long :=
  match ea with
  | .dn _ | .an _ | .imm _ => none
  | .ind n | .postinc n => some (s.areg n)
  | .predec n => some (s.areg n - BitVec.ofNat 32 sz.bytes)
  | .disp n d => some (s.areg n + d.signExtend 32)
  | .index n w =>
    some (s.areg n + w.d8.signExtend 32 + s.reg w.xn * BitVec.ofNat 32 (2 ^ w.scale.toNat))
  | .absW a => some (a.signExtend 32)
  | .absL a => some a
  | .pcDisp d => some (s.pc + 2 + d.signExtend 32)
  | .pcIndex w =>
    some (s.pc + 2 + w.d8.signExtend 32 + s.reg w.xn * BitVec.ofNat 32 (2 ^ w.scale.toNat))

/-- The state after the register update of (An)+ and -(An) (30_encoding R113, R114). -/
def eaAfter (ea : Ea) (sz : Size) (s : State) : State :=
  match ea with
  | .postinc n => { s with a := s.a.set n (s.areg n + BitVec.ofNat 32 sz.bytes) }
  | .predec n => { s with a := s.a.set n (s.areg n - BitVec.ofNat 32 sz.bytes) }
  | _ => s

/-- The low bytes of a register or an immediate. -/
def lowBytes (v : Long) (sz : Size) : Long := BitVec.ofNat 32 (v.toNat % 2 ^ (8 * sz.bytes))

/-- The value of an operand, zero-extended (30_encoding R120). -/
def eaValue (ea : Ea) (sz : Size) (s : State) : Long :=
  match ea, eaAddr ea sz s with
  | .dn n, _ => lowBytes (s.dreg n) sz
  | .an n, _ => lowBytes (s.areg n) sz
  | .imm v, _ => lowBytes v sz
  | _, some a => s.mem.read a sz
  | _, none => 0

/-- The operand can be read. -/
def eaReadable (ea : Ea) (sz : Size) (s : State) : Bool :=
  eaIndexValid ea &&
    match eaAddr ea sz s with
    | some a => readable a sz s
    | none => true

/-- A register whose low `sz` bytes are replaced (10_state R23). -/
def replaceLow (old v : Long) (sz : Size) : Long :=
  BitVec.ofNat 32
    (old.toNat / 2 ^ (8 * sz.bytes) * 2 ^ (8 * sz.bytes) + v.toNat % 2 ^ (8 * sz.bytes))

/-! ## Flags by exact arithmetic (10_state R32, Table 3-9) -/

/-- An integer that 32 bits hold in two's complement. -/
def fitsSigned (z : Int) : Bool := -2 ^ 31 ≤ z && z < 2 ^ 31

/-- `d + s + x`. -/
def exactSum (s d : Long) (x : Nat) : Long := BitVec.ofNat 32 (d.toNat + s.toNat + x)

/-- `d - s - x`. -/
def exactDiff (s d : Long) (x : Nat) : Long := BitVec.ofInt 32 (d.toNat - s.toNat - x)

/-- N, Z and V, C, of the sum of `s`, `d` and `x`. -/
def addCcr (sr : SR) (s d : Long) (x : Nat) : SR :=
  { sr with
    n := decide ((exactSum s d x).toInt < 0)
    z := decide (exactSum s d x = 0)
    v := !fitsSigned (d.toInt + s.toInt + x)
    c := decide (2 ^ 32 ≤ d.toNat + s.toNat + x) }

/-- N, Z and V, C, of the difference of `d` and `s` and `x`. -/
def subCcr (sr : SR) (s d : Long) (x : Nat) : SR :=
  { sr with
    n := decide ((exactDiff s d x).toInt < 0)
    z := decide (exactDiff s d x = 0)
    v := !fitsSigned (d.toInt - s.toInt - x)
    c := decide (d.toNat < s.toNat + x) }

/-- X takes the carry (10_state R32). -/
def withX (sr : SR) : SR := { sr with x := sr.c }

/-- Z is cleared if it was clear before: ADDX, SUBX, NEGX (10_state R32). -/
def stickyZ (old : SR) (sr : SR) : SR := { sr with z := old.z && sr.z }

/-- "- * * 0 0" on the low `sz` bytes of a value (10_state R32). -/
def moveCcr (sr : SR) (v : Long) (sz : Size) : SR :=
  { sr with
    n := decide (2 ^ (8 * sz.bytes - 1) ≤ v.toNat % 2 ^ (8 * sz.bytes))
    z := decide (v.toNat % 2 ^ (8 * sz.bytes) = 0)
    v := false
    c := false }

/-- The CCR bits of a word written to CCR or SR (10_state R28). -/
def ccrOf (sr : SR) (v : Nat) : SR :=
  { sr with
    x := decide (v / 16 % 2 = 1)
    n := decide (v / 8 % 2 = 1)
    z := decide (v / 4 % 2 = 1)
    v := decide (v / 2 % 2 = 1)
    c := decide (v % 2 = 1) }

/-! ## Conditions (10_state R33) -/

/-- The four-bit code of a condition, Table 3-10. -/
def condNumber : Cond → Nat
  | .t => 0
  | .f => 1
  | .hi => 2
  | .ls => 3
  | .cc => 4
  | .cs => 5
  | .ne => 6
  | .eq => 7
  | .vc => 8
  | .vs => 9
  | .pl => 10
  | .mi => 11
  | .ge => 12
  | .lt => 13
  | .gt => 14
  | .le => 15

/-- The test of a condition, as Table 3-10 prints it. -/
def condTest (sr : SR) : Cond → Bool
  | .t => true
  | .f => false
  | .hi => !sr.c && !sr.z
  | .ls => sr.c || sr.z
  | .cc => !sr.c
  | .cs => sr.c
  | .ne => !sr.z
  | .eq => sr.z
  | .vc => !sr.v
  | .vs => sr.v
  | .pl => !sr.n
  | .mi => sr.n
  | .ge => sr.n && sr.v || !sr.n && !sr.v
  | .lt => sr.n && !sr.v || !sr.n && sr.v
  | .gt => sr.n && sr.v && !sr.z || !sr.n && !sr.v && !sr.z
  | .le => sr.z || sr.n && !sr.v || !sr.n && sr.v

/-! ## Encodings of the instructions without an effective address -/

/-- The operation word `w`, whatever follows it, is `i` on every chip. -/
def wordIs (w : Nat) (i : Instr) : Prop :=
  ∀ (cfg : Config) (ws : List Word), decodeWords cfg (BitVec.ofNat 16 w :: ws) = .ok (i, ws)

/-- The operation word `w` with the upper, then the lower word of `v` is `i` on every chip. -/
def wordsAre (w : Nat) (v : Long) (i : Instr) : Prop :=
  ∀ (cfg : Config) (ws : List Word),
    decodeWords cfg (BitVec.ofNat 16 w :: v.extractLsb' 16 16 :: v.extractLsb' 0 16 :: ws) =
      .ok (i, ws)

/-! ## Shifts and bits in closed form -/

/-- A shift by `c` at once: the result and the last bit shifted out (43_shift R290 to R295). -/
def shiftedBy (op : ShiftOp) (c : Nat) (v : Long) : Long × Bool :=
  match op with
  | .asl | .lsl => (v <<< c, decide (c ≤ 32) && v.getLsbD (32 - c))
  | .lsr => (v >>> c, v.getLsbD (c - 1))
  | .asr => (v.sshiftRight c, v.getLsbD (min (c - 1) 31))

/-- The flags of a shift by `c` (43_shift R290). -/
def shiftCcr (sr : SR) (op : ShiftOp) (c : Nat) (v : Long) : SR :=
  let r := shiftedBy op c v
  { moveCcr sr r.1 .long with
    c := decide (c ≠ 0) && r.2
    x := if c = 0 then sr.x else r.2 }

/-- The operation word of a shift (43_shift R290): count or register `ccc`, `i` = 1 for a
register. -/
def shiftWord (op : ShiftOp) (ccc i n : Nat) : Nat :=
  let dr_type := match op with
    | .asr => 0
    | .lsr => 8
    | .asl => 256
    | .lsl => 264
  0xE080 + ccc * 512 + dr_type + i * 32 + n

/-- Bit `k` of a value. -/
def bitOf (v : Long) (k : Nat) : Bool := decide (v.toNat / 2 ^ k % 2 = 1)

/-- A value with its bit `k` replaced. -/
def putBit (v : Long) (k : Nat) (b : Bool) : Long :=
  BitVec.ofNat 32 (v.toNat - (bitOf v k).toNat * 2 ^ k + b.toNat * 2 ^ k)

/-! ## Groups of instructions -/

/-- MOVE of a size. -/
def moveInstr (sz : Size) (src dst : Ea) : Instr :=
  match sz with
  | .byte => .moveB src dst
  | .word => .moveW src dst
  | .long => .moveL src dst

/-- CLR of a size. -/
def clrInstr (sz : Size) (ea : Ea) : Instr :=
  match sz with
  | .byte => .clrB ea
  | .word => .clrW ea
  | .long => .clrL ea

/-- TST of a size. -/
def tstInstr (sz : Size) (ea : Ea) : Instr :=
  match sz with
  | .byte => .tstB ea
  | .word => .tstW ea
  | .long => .tstL ea

/-- WDDATA of a size. -/
def wddataInstr (sz : Size) (ea : Ea) : Instr :=
  match sz with
  | .byte => .wddataB ea
  | .word => .wddataW ea
  | .long => .wddataL ea

/-- A shift by an immediate count. -/
def shiftImmInstr (op : ShiftOp) (q : BitVec 3) (n : RegNum) : Instr :=
  match op with
  | .asl => .aslImm q n
  | .asr => .asrImm q n
  | .lsl => .lslImm q n
  | .lsr => .lsrImm q n

/-- A shift by the count in register `c`. -/
def shiftRegInstr (op : ShiftOp) (c n : RegNum) : Instr :=
  match op with
  | .asl => .aslReg c n
  | .asr => .asrReg c n
  | .lsl => .lslReg c n
  | .lsr => .lsrReg c n

/-- The bit instructions that write. -/
inductive BitOp where
  | chg
  | clr
  | set
deriving DecidableEq, Repr

/-- The new bit (44_bit_manipulation R313 to R315). -/
def newBit (op : BitOp) (old : Bool) : Bool :=
  match op with
  | .chg => !old
  | .clr => false
  | .set => true

/-- BCHG, BCLR, BSET with the bit number in a register. -/
def bitDynInstr (op : BitOp) (r : RegNum) (ea : Ea) : Instr :=
  match op with
  | .chg => .bchgDyn r ea
  | .clr => .bclrDyn r ea
  | .set => .bsetDyn r ea

/-- BCHG, BCLR, BSET with the bit number in the instruction. -/
def bitImmInstr (op : BitOp) (b : Byte) (ea : Ea) : Instr :=
  match op with
  | .chg => .bchgImm b ea
  | .clr => .bclrImm b ea
  | .set => .bsetImm b ea

/-- MOVE from An to (An)+ or -(An), where the spec leaves the stored value open
(30_encoding R125). -/
def storesUpdated (src dst : Ea) : Bool :=
  match src, dst with
  | .an n, .postinc k | .an n, .predec k => n == k
  | _, _ => false

/-- Bcc and BRA by their condition; $1 is BSR and has no condition (45_program_control R331). -/
def branchInstr (c : Cond) (d : Disp) : Instr :=
  match c with
  | .t => .bra d
  | .f => .bsr d
  | .hi => .bhi d
  | .ls => .bls d
  | .cc => .bcc d
  | .cs => .bcs d
  | .ne => .bne d
  | .eq => .beq d
  | .vc => .bvc d
  | .vs => .bvs d
  | .pl => .bpl d
  | .mi => .bmi d
  | .ge => .bge d
  | .lt => .blt d
  | .gt => .bgt d
  | .le => .ble d

/-- The displacement of a branch as a long word. -/
def Disp.value : Disp → Long
  | .byte d => d.signExtend 32
  | .word d => d.signExtend 32

/-! ## Stores (20_memory R62, R64, R65, R67, R81) -/

/-- `t` is `s` after a store at `a` that is not misaligned, whatever its bus cycles answer. If all of
them complete, memory has the value. If the one cycle of an operand on its own boundary does not,
memory is unchanged and the error is pending behind the earlier ones, with fault status 1001 for a
write-protected address and 1000 otherwise. In the pieces of a misaligned operand each byte is the
old or the new one. What fetches may still see is recorded: the bytes replaced, as they were. -/
structure Stored (a : Long) (sz : Size) (v : Long) (s t : State) : Prop where
  rest : t = { s with mem := t.mem, stale := t.stale, writeBuffer := t.writeBuffer }
  completes : writable a sz s = true →
    t.mem = s.mem.write a sz v ∧ t.writeBuffer = s.writeBuffer
  fails : a.toNat % sz.bytes = 0 → writable a sz s = false →
    t.mem = s.mem ∧ t.writeBuffer = s.writeBuffer ++
      [⟨a, sz, v, if s.writeAnswer a sz = .writeProtected then 0b1001 else 0b1000⟩]
  outside : ∀ k, k ∉ byteAddrs a sz → t.mem.byte k = s.mem.byte k
  inside : ∀ k, t.mem.byte k = s.mem.byte k ∨ t.mem.byte k = (s.mem.write a sz v).byte k
  pending : ∃ errors, t.writeBuffer = s.writeBuffer ++ errors ∧
    (errors = [] ↔ writable a sz s = true) ∧ ∀ p ∈ errors, p.fs = 0b1000 ∨ p.fs = 0b1001
  record : ∃ replaced, t.stale = replaced ++ s.stale ∧
    (a.toNat % sz.bytes = 0 → replaced.length ≤ 1) ∧
    (∀ r ∈ replaced, r ≠ [] ∧ ∀ c ∈ r, c.2 = s.mem.byte c.1 ∧ t.mem.byte c.1 ≠ c.2) ∧
    ∀ k, t.mem.byte k ≠ s.mem.byte k → ∃ r ∈ replaced, lookup k r = some (s.mem.byte k)

/-- `t` is `s` after stores of long words at rising addresses, one after the other. -/
def StoredLongs (a : Long) (s t : State) : List Long → Prop
  | [] => t = s
  | v :: vs => ∃ u, Stored a .long v s u ∧ StoredLongs (a + 4) u t vs

/-- The register of a bit of MOVEM's mask: D0 to D7, then A0 to A7 (40_data_movement R207). -/
def maskReg (k : Nat) : Reg := if k < 8 then .d (Fin.ofNat 8 k) else .a (Fin.ofNat 8 (k - 8))

/-- The registers of MOVEM's mask, from bit 0 up (40_data_movement R207). -/
def maskRegs (mask : Word) : List Reg :=
  ((List.range 16).filter fun k => mask.toNat / 2 ^ k % 2 == 1).map maskReg

/-- Long words at rising addresses. -/
def storeLongs (m : Memory) (a : Long) : List Long → Memory
  | [] => m
  | v :: vs => storeLongs (m.write a .long v) (a + 4) vs

/-- Registers loaded from long words at rising addresses. -/
def loadLongs (a : Long) (s : State) : List Reg → State
  | [] => s
  | r :: rs => loadLongs (a + 4) (s.setReg r (s.mem.read a .long)) rs

/-- The instructions that user mode may not run (46_system_control R360), PULSE and WDDATA
apart. -/
def isPrivileged : Instr → Bool
  | .moveFromSr _ | .moveToSr _ | .movec _ _ | .rte | .stop _ | .halt | .wdebug _ => true
  | _ => false

/-- The codes of MOVEC, VBR's $801 apart (10_state R35). -/
def ctrlCodes : List (BitVec 12 × CtrlReg) :=
  [(0x002, .cacr), (0x003, .tcr), (0x004, .acr2), (0x005, .acr3), (0x006, .acr0), (0x007, .acr1),
    (0xC00, .rombar), (0xC04, .rambar0), (0xC05, .rambar1), (0xC0F, .mbar)]

/-- The contents of a control register. -/
def ctrlValue : CtrlReg → ControlRegs → Long
  | .cacr => ControlRegs.cacr
  | .tcr => ControlRegs.tcr
  | .acr2 => ControlRegs.acr2
  | .acr3 => ControlRegs.acr3
  | .acr0 => ControlRegs.acr0
  | .acr1 => ControlRegs.acr1
  | .rombar => ControlRegs.rombar
  | .rambar0 => ControlRegs.rambar0
  | .rambar1 => ControlRegs.rambar1
  | .mbar => ControlRegs.mbar

/-- The operands on which the spec gives an instruction no effect: LINK A7, UNLK A7, MOVEC to
an undefined code, WDEBUG off a multiple of 4 (40 R208, R209, 46 R365, R371). -/
def isOpenCase (i : Instr) (s : State) : Bool :=
  match i with
  | .link n _ | .unlk n => n == 7
  | .movec _ rc => rc != 0x801 && ctrlCodes.all fun p => p.1 != rc
  | .wdebug ea =>
    match eaAddr ea .long s with
    | some a => a.toNat % 4 != 0
    | none => false
  | _ => false

/-! ## Exceptions -/

/-- The state in the mode in which exceptions are processed (60_exceptions R410 step 1). -/
def inHandlerMode (s : State) : State := { s with sr := { s.sr with s := true } }

/-- The aligned stack pointer of a frame (60_exceptions R413). -/
def frameBase (s : State) : Long := s.sp - BitVec.ofNat 32 (s.sp.toNat % 4) - 8

/-- The first long word of a frame as a sum of its fields (60_exceptions R411, Table 7-2). -/
def frameHead (vector : Byte) (fs : BitVec 4) (s : State) : Long :=
  BitVec.ofNat 32 ((4 + s.sp.toNat % 4) * 2 ^ 28 + fs.toNat / 4 * 2 ^ 26 + vector.toNat * 2 ^ 18
    + fs.toNat % 4 * 2 ^ 16 + s.sr.toWord.toNat)

/-- Memory with the frame. -/
def framed (vector : Byte) (spc : Long) (fs : BitVec 4) (s : State) : Memory :=
  (s.mem.write (frameBase s + 4) .long spc).write (frameBase s) .long (frameHead vector fs s)

/-- The address of a vector's long word (60_exceptions R401). -/
def vectorSlot (vector : Byte) (s : State) : Long :=
  BitVec.ofNat 32 (s.vbr.toNat * 2 ^ 20 + 4 * vector.toNat)

/-- The handler's address, read after the frame is written. -/
def handlerOf (vector : Byte) (spc : Long) (fs : BitVec 4) (s : State) : Long :=
  (framed vector spc fs s).read (vectorSlot vector s) .long

/-- Exception entry completes: the frame can be written and the vector read in supervisor mode,
and the handler is at an even address that can be fetched (60_exceptions R455). -/
def canEnter (vector : Byte) (spc : Long) (fs : BitVec 4) (s : State) : Bool :=
  writable (frameBase s + 4) .long (inHandlerMode s) && writable (frameBase s) .long (inHandlerMode s)
    && readable (vectorSlot vector s) .long (inHandlerMode s)
    && even (handlerOf vector spc fs s)
    && (byteAddrs (handlerOf vector spc fs s) .word).all fun b =>
      (answersAt s.memoryMap true b).fetch

/-- The state after exception entry (60_exceptions R410). -/
def entered (vector : Byte) (spc : Long) (fs : BitVec 4) (s : State) : State :=
  { s with
    mem := framed vector spc fs s
    a := s.a.set 7 (frameBase s)
    pc := handlerOf vector spc fs s
    sr := { s.sr with s := true, t := false }
    tracePending := false
    irqInhibit := true
    stale := [] }

/-! ## Between steps -/

/-- What holds of every state a run from reset reaches, between steps: memory is canonical, the
program counter is even unless the fault-on-fault halt has made it unknown, a stopped machine
is not being traced and samples interrupts, and a machine that STOP or HALT stopped has no
write error pending (20_memory R63, 45 R330, 46 R367, R374, 60_exceptions R444). -/
structure Inv (s : State) : Prop where
  memory : s.mem.wf = true
  pcEven : s.run ≠ .haltedFault → even s.pc = true
  stoppedUntraced : s.run = .stopped → s.tracePending = false
  stoppedSampling : s.run = .stopped → s.irqInhibit = false
  stoppedDrained : s.run = .stopped ∨ s.run = .haltedByInstruction → s.writeBuffer = []

/-- The words of memory from `a` up. -/
def wordsAt (m : Memory) (a : Long) : Nat → List Word
  | 0 => []
  | n + 1 => (m.byte a.toNat ++ m.byte (a + 1).toNat) :: wordsAt m (a + 2) n

/-- The parts of the state that only supervisor mode may change (46_system_control R360). -/
def sameProtected (s t : State) : Prop :=
  t.vbr = s.vbr ∧ t.ctrl = s.ctrl ∧ t.memoryMap = s.memoryMap ∧ t.sr.t = s.sr.t ∧
    t.sr.s = s.sr.s ∧ t.sr.m = s.sr.m ∧ t.sr.i = s.sr.i

end Sys2Proof.Machine
end

