-- ==== Sys2Proof/Certificates/Slice0/Obligations.lean ====
section
/-! DEFINITION. The statements about this machine, for the provers. -/

open Sys2Proof Sys2Proof.Machine

/-! ## The step, the decoder and the encoder -/

/-- One step of a running machine, with no reset and no write error signalled, whose fetches see
memory. The words at the program counter decode to `i`: the step is `exec` of `i` and the boundary
after it. One of the instruction's words cannot be fetched: the access error, fault status 0100,
before anything else. An operation word that no row admits, or a reserved own word: the refusals of
30_encoding R106 and R107, or the illegal instruction by parameter; but in user mode a wrong second
word of WDEBUG is never looked at (60_exceptions R450, 20_memory R66 (a), 46 R360). The refusals of
undefined words and of reserved own words are the spec's own decisions D9 and D11; the refusal of a
line-F word that only the chip defines is the model's choice, log 20, as is the grain of a step, log
7. -/
def Obligations.StepRunsDecodedInstruction : Prop :=
  ∀ s : State,
    s.run = .running → s.input.reset = false →
    s.input.reportWriteError = false ∨ s.writeBuffer = [] → s.stale = [] →
    let b := beginInstr (takeInput s)
    let opword := s.mem.byte s.pc.toNat ++ s.mem.byte (s.pc + 1).toNat
    let fetched := fun n => ∀ k, k ≤ n → s.canFetch (s.pc + BitVec.ofNat 32 (2 * k)) = true
    (∀ i : Instr, i.wf s.cfg = true →
      decodeWords s.cfg (wordsAt s.mem s.pc (1 + i.extWords)) = .ok (i, []) →
      fetched i.extWords →
      (∀ t, exec i b = .next t → step s = .next (boundary s.input t)) ∧
      (∀ r, exec i b = .refused r → step s = .refused r)) ∧
    (s.canFetch s.pc = false →
      step s = .next (boundary s.input (takeException 2 s.pc 0b0100 none b))) ∧
    (∀ form, s.canFetch s.pc = true → decodeOp s.cfg opword = .ok form → ¬ fetched form.words →
      step s = .next (boundary s.input (takeException 2 s.pc 0b0100 none b))) ∧
    (∀ w, s.canFetch s.pc = true → decodeOp s.cfg opword = .error (.undefinedOpword w) →
      (s.cfg.undefinedOpwordTraps = false → step s = .refused (.undefinedOpword w)) ∧
      (s.cfg.undefinedOpwordTraps = true →
        step s = .next (boundary s.input (takeException 4 s.pc 0 none b)))) ∧
    (∀ w, s.canFetch s.pc = true → decodeOp s.cfg opword = .error (.lineFElsewhere w) →
      step s = .refused (.lineFElsewhere w)) ∧
    (∀ form w, decodeOp s.cfg opword = .ok form → fetched form.words →
      (form.complete (wordsAt s.mem (s.pc + 2) form.words) = .error (.reservedExtension w) →
        step s = .refused (.reservedExtension w)) ∧
      (form.complete (wordsAt s.mem (s.pc + 2) form.words) = .error (.reservedPrivileged w) →
        (s.sr.s = true → step s = .refused (.reservedExtension w)) ∧
        (s.sr.s = false →
          step s = .next (boundary s.input (takeException 8 s.pc 0 none b)))))

/-- Words written out from the encoding tables, one or more per line of the opcode map. -/
def Obligations.SampleWordsDecode : Prop :=
  decodeTableWord 48 0x5678_1234_0680 = some (.addi 0 0x12345678) ∧
  decodeTableWord 16 0x1200 = some (.moveB (.dn 0) (.dn 1)) ∧
  decodeTableWord 48 0x0004_0008_2569 = some (.moveL (.disp 1 8) (.disp 2 4)) ∧
  decodeTableWord 32 0x8000_307C = some (.moveaW (.imm 0x8000) 0) ∧
  decodeTableWord 32 0x0103_48D7 = some (.movemStore 0x0103 (.ind 7)) ∧
  decodeTableWord 32 0x2800_4C01 = some (.mulsL 2 (.dn 1)) ∧
  decodeTableWord 16 0x528F = some (.addq 1 (.an 7)) ∧
  decodeTableWord 16 0x6604 = some (.bne (.byte 4)) ∧
  decodeTableWord 16 0x70FF = some (.moveq 0xFF 0) ∧
  decodeTableWord 16 0x8098 = some (.orToDn 0 (.postinc 0)) ∧
  decodeTableWord 16 0x9181 = some (.subx 1 0) ∧
  decodeTableWord 16 0xB181 = some (.eor 0 (.dn 1)) ∧
  decodeTableWord 16 0xC1C1 = some (.mulsW (.dn 1) 0) ∧
  decodeTableWord 16 0xD199 = some (.addToEa 0 (.postinc 1)) ∧
  decodeTableWord 16 0xE3A8 = some (.lslReg 1 0) ∧
  decodeTableWord 32 0x0003_FBD1 = some (.wdebug (.ind 1))

/-- The decoder reads every well-formed instruction back from its own encoding, whatever words
follow it, on every chip (30_encoding R101 to R128). -/
def Obligations.DecodeAfterEncode : Prop :=
  ∀ (cfg : Config) (i : Instr) (rest : List Word),
    i.wf cfg = true → decodeWords cfg (encode i ++ rest) = .ok (i, rest)

/-- What the decoder answers is well formed, and takes as many words as 30_encoding R103 says. -/
def Obligations.DecodedIsWellFormed : Prop :=
  ∀ (cfg : Config) (ws : List Word) (i : Instr) (rest : List Word),
    decodeWords cfg ws = .ok (i, rest) →
    i.wf cfg = true ∧ ws.length = 1 + i.extWords + rest.length

/-- The operation words that raise an exception by decoding: $0000, $4AFC, all of line A, and
every word of line F that no row and no chip defines (30_encoding R105). That every other word of
line F is undefined by default is the spec's own decision D10. -/
def Obligations.ExceptionWordsDecode : Prop :=
  ∀ (cfg : Config) (ws : List Word),
    decodeWords cfg (0x0000 :: ws) = .ok (.illegal0000, ws) ∧
    decodeWords cfg (0x4AFC :: ws) = .ok (.illegal4AFC, ws) ∧
    (∀ x : BitVec 12, decodeWords cfg ((0xA#4 ++ x) :: ws) = .ok (.lineA x, ws)) ∧
    (∀ x : BitVec 12, isDebugWord x = false → cfg.flineExtra.contains (0xF#4 ++ x) = false →
      decodeWords cfg ((0xF#4 ++ x) :: ws) = .ok (.lineF x, ws))

/-! ## Memory and operands -/

/-- Big-endian: the byte at the lowest address is the most significant; a write is the inverse of
a read and leaves every other byte (20_memory R61, R62). That an operand which runs past the top
of memory goes on at address 0 is the spec's own decision (20_memory R60). -/
def Obligations.MemoryIsBigEndian : Prop :=
  ∀ (m : Memory) (a : Long) (sz : Size) (v : Long),
    let b := fun k => (m.byte ((a.toNat + k) % 2 ^ 32)).toNat
    (m.read a .byte).toNat = b 0 ∧
    (m.read a .word).toNat = b 0 * 2 ^ 8 + b 1 ∧
    (m.read a .long).toNat = b 0 * 2 ^ 24 + b 1 * 2 ^ 16 + b 2 * 2 ^ 8 + b 3 ∧
    (m.write a sz v).read a sz = lowBytes v sz ∧
    ∀ k, k ∉ byteAddrs a sz → (m.write a sz v).byte k = m.byte k

/-- The canonical form is canonical: two memories in it that read the same are the same data. The
form of memory is the model's choice, log 1. -/
def Obligations.MemoryIsCanonical : Prop :=
  ∀ m m' : Memory, m.wf = true → m'.wf = true → (∀ a, m.byte a = m'.byte a) → m = m'

/-- Every addressing mode, read: the operand's value, and no effect but the register update of
(An)+ and -(An) (30_encoding R111 to R120). -/
def Obligations.OperandRead : Prop :=
  ∀ (ea : Ea) (sz : Size) (s : State), eaReadable ea sz s = true →
    readEa ea sz s = .ok (eaValue ea sz s) (eaAfter ea sz s)

/-- The three ways in which reading an operand fails, in this order: an invalid index word before
anything else, then misalignment, then an access error, the last two after the register update
(30_encoding R115, 20_memory R61, R64, R66). The register update before an address error and the
place of the index check are the spec's own decisions D4 and D12. -/
def Obligations.OperandReadFaults : Prop :=
  ∀ (ea : Ea) (sz : Size) (s : State),
    (eaIndexValid ea = false → readEa ea sz s = .raise (.addressError .invalidIndex) s) ∧
    (∀ a, eaIndexValid ea = true → eaAddr ea sz s = some a → aligned a sz s = false →
      readEa ea sz s = .raise (.addressError .misalignedRead) (eaAfter ea sz s)) ∧
    (∀ a, eaIndexValid ea = true → eaAddr ea sz s = some a → aligned a sz s = true →
      readable a sz s = false → readEa ea sz s = .raise .accessRead (eaAfter ea sz s))

/-- A store: misaligned on a chip without the module, it changes nothing and raises the address
error; every other one completes as far as its instruction is concerned, and leaves what `Stored`
says: the value in memory, or an error pending and memory unchanged, and in the record of what
fetches may still see the bytes that it replaced, as they were before it (20_memory R62, R64, R67,
R81). When a pending error is reported and what fetches see are the spec's own decisions D6 and D8;
the form of the record, that good writes complete at once, and the pieces of a misaligned store are
the model's choice, logs 10, 8 and 13. -/
def Obligations.Stores : Prop :=
  ∀ (a : Long) (sz : Size) (v : Long) (s : State),
    (aligned a sz s = true → ∃ t, Stored a sz v s t ∧ writeMem a sz v s = .ok () t) ∧
    (aligned a sz s = false → writeMem a sz v s = .raise (.addressError .misalignedWrite) s)

/-- A fetch sees memory if no store came since the last synchronising event; otherwise each of its
bytes is the present one or one that a store since then replaced (20_memory R81). The rule is the
spec's own decision D8, the draw the model's choice, log 10. -/
def Obligations.FetchSeesOldOrNew : Prop :=
  ∀ (a : Long) (s : State), s.canFetch a = true →
    (s.stale = [] →
      fetchWord a s = .ok (s.mem.byte a.toNat ++ s.mem.byte (a + 1).toNat) s) ∧
    ∃ (h l : Byte) (k : Nat), fetchWord a s = .ok (h ++ l) { s with draws := k } ∧
      (h = s.mem.byte a.toNat ∨ ∃ r ∈ s.stale, lookup a.toNat r = some h) ∧
      (l = s.mem.byte (a + 1).toNat ∨ ∃ r ∈ s.stale, lookup (a + 1).toNat r = some l)

/-! ## The status register -/

/-- SR as a word: where its bits are, that the reserved ones read as 0, and that a written word
keeps bits $B71F alone (10_state R28, R29). That a 1 written to a reserved bit is dropped is the
spec's own decision D1. -/
def Obligations.StatusRegisterWord : Prop :=
  (∀ w : Word, (SR.ofWord w).toWord = w &&& 0xB71F) ∧
  ∀ sr : SR, SR.ofWord sr.toWord = sr ∧
    sr.toWord.toNat = sr.t.toNat * 2 ^ 15 + sr.s.toNat * 2 ^ 13 + sr.m.toNat * 2 ^ 12
      + sr.i.toNat * 2 ^ 8 + sr.x.toNat * 2 ^ 4 + sr.n.toNat * 2 ^ 3 + sr.z.toNat * 2 ^ 2
      + sr.v.toNat * 2 + sr.c.toNat ∧
    sr.ccrWord = sr.toWord &&& 0x1F

/-- The sixteen conditions by their codes and tests, and Scc, which writes the low byte of Dn by
them and nothing else (10_state R33, 45 R338). -/
def Obligations.ConditionsAndScc : Prop :=
  ∀ (s : State) (c : Cond) (n : RegNum),
    wordIs (0x50C0 + condNumber c * 256 + n.val) (.scc c n) ∧
    condHolds c s.sr = condTest s.sr c ∧
    exec (.scc c n) s = .next { s with
      d := s.d.set n (replaceLow (s.dreg n) (if condTest s.sr c then 0xFF else 0) .byte)
      pc := s.pc + 2 }

/-- After `CMP Dm,Dn` the conditions of Table 3-10 are the comparisons of Dn with Dm: the
unsigned ones and the signed ones (10_state R33, 41 R237). -/
def Obligations.ConditionsCompareOperands : Prop :=
  ∀ (s : State) (m n : RegNum), ∃ t, exec (.cmp (.dn m) n) s = .next t ∧
    let d := s.dreg n
    let v := s.dreg m
    condHolds .eq t.sr = decide (d = v) ∧
    condHolds .ne t.sr = decide (d ≠ v) ∧
    condHolds .cs t.sr = decide (d.toNat < v.toNat) ∧
    condHolds .cc t.sr = decide (v.toNat ≤ d.toNat) ∧
    condHolds .hi t.sr = decide (v.toNat < d.toNat) ∧
    condHolds .ls t.sr = decide (d.toNat ≤ v.toNat) ∧
    condHolds .lt t.sr = decide (d.toInt < v.toInt) ∧
    condHolds .ge t.sr = decide (v.toInt ≤ d.toInt) ∧
    condHolds .gt t.sr = decide (v.toInt < d.toInt) ∧
    condHolds .le t.sr = decide (d.toInt ≤ v.toInt)

/-! ## Data movement -/

/-- MOVE to a data register, MOVEA, MOVEQ: the low part replaced and the flags by the data; the
whole register, sign-extended, and no flag (40 R201, R202, R204). -/
def Obligations.MoveToRegister : Prop :=
  ∀ (s : State) (n : RegNum),
    (∀ (sz : Size) (src : Ea), eaReadable src sz s = true →
      exec (moveInstr sz src (.dn n)) s = .next { eaAfter src sz s with
        d := s.d.set n (replaceLow (s.dreg n) (eaValue src sz s) sz)
        sr := moveCcr s.sr (eaValue src sz s) sz
        pc := s.pc + BitVec.ofNat 32 (2 + 2 * src.words sz) }) ∧
    (∀ src : Ea, eaReadable src .word s = true →
      exec (.moveaW src n) s = .next { eaAfter src .word s with
        a := (eaAfter src .word s).a.set n (((eaValue src .word s).setWidth 16).signExtend 32)
        pc := s.pc + BitVec.ofNat 32 (2 + 2 * src.words .word) }) ∧
    (∀ src : Ea, eaReadable src .long s = true →
      exec (.moveaL src n) s = .next { eaAfter src .long s with
        a := (eaAfter src .long s).a.set n (eaValue src .long s)
        pc := s.pc + BitVec.ofNat 32 (2 + 2 * src.words .long) }) ∧
    (∀ v : Byte, wordIs (0x7000 + n.val * 512 + v.toNat) (.moveq v n) ∧
      exec (.moveq v n) s = .next { s with
        d := s.d.set n (v.signExtend 32)
        sr := moveCcr s.sr (v.signExtend 32) .long
        pc := s.pc + 2 })

/-- MOVE to memory: the source is read and its register updated before the destination's address
is formed; the operand's bytes are stored and the flags follow the data, also if the write's bus
cycle ends in an error, which stays pending with memory unchanged (40 R201, 20_memory R67). The
order of the two operands is the spec's own decision D13; what a store leaves, `Stored`, rests on
decisions D6 and D8 and on logs 8, 10 and 13. -/
def Obligations.MoveToMemory : Prop :=
  ∀ (s : State) (sz : Size) (src dst : Ea) (a : Long),
    eaReadable src sz s = true → storesUpdated src dst = false →
    eaIndexValid dst = true → eaAddr dst sz (eaAfter src sz s) = some a → aligned a sz s = true →
    ∃ t, Stored a sz (eaValue src sz s) s t ∧ exec (moveInstr sz src dst) s = .next { t with
      a := (eaAfter dst sz (eaAfter src sz s)).a
      sr := moveCcr s.sr (eaValue src sz s) sz
      pc := s.pc + BitVec.ofNat 32 (2 + 2 * (src.words sz + dst.words sz)) }

/-- MOVE An,(An)+ and MOVE An,-(An): the value stored is An before or after the update, which of
the two is open (30_encoding R125). The free value is the spec's own decision D13, log 12; the
statement holds for both values. That the flags follow the one stored is not in R125: it is the
model's deduction, log 12. What a store leaves, `Stored`, rests on decisions D6 and D8 and on logs
8, 10 and 13. -/
def Obligations.MoveOfUpdatedRegister : Prop :=
  ∀ (s : State) (sz : Size) (n : RegNum) (dst : Ea) (a : Long),
    dst = .postinc n ∨ dst = .predec n → eaAddr dst sz s = some a → aligned a sz s = true →
    ∃ v t, (v = lowBytes (s.areg n) sz ∨ v = lowBytes ((eaAfter dst sz s).areg n) sz) ∧
      Stored a sz v s t ∧ exec (moveInstr sz (.an n) dst) s = .next { t with
        a := (eaAfter dst sz s).a
        sr := moveCcr s.sr v sz
        pc := s.pc + 2
        draws := s.draws + 1 }

/-- LEA, PEA, LINK, UNLK (40 R205, R206, R208, R209). PEA's order and the exclusion of A7 are the
spec's own decisions D14 and D16; what a push leaves, an error pending included, is `Stored`:
decisions D6 and D8, logs 8, 10 and 13. -/
def Obligations.AddressAndFrameInstructions : Prop :=
  ∀ s : State,
    (∀ (ea : Ea) (n : RegNum) (a : Long), ea.isControl = true → eaIndexValid ea = true →
      eaAddr ea .long s = some a →
      exec (.lea ea n) s = .next { s with
        a := s.a.set n a
        pc := s.pc + BitVec.ofNat 32 (2 + 2 * ea.words .long) }) ∧
    (∀ (ea : Ea) (a : Long), ea.isControl = true → eaIndexValid ea = true →
      eaAddr ea .long s = some a → aligned (s.sp - 4) .long s = true →
      ∃ t, Stored (s.sp - 4) .long a s t ∧ exec (.pea ea) s = .next { t with
        a := s.a.set 7 (s.sp - 4)
        pc := s.pc + BitVec.ofNat 32 (2 + 2 * ea.words .long) }) ∧
    (∀ (n : RegNum) (d : Word), n ≠ 7 → aligned (s.sp - 4) .long s = true →
      ∃ t, Stored (s.sp - 4) .long (s.areg n) s t ∧ exec (.link n d) s = .next { t with
        a := (s.a.set n (s.sp - 4)).set 7 (s.sp - 4 + d.signExtend 32)
        pc := s.pc + 4 }) ∧
    (∀ n : RegNum, n ≠ 7 → readable (s.areg n) .long s = true →
      exec (.unlk n) s = .next { s with
        a := (s.a.set n (s.mem.read (s.areg n) .long)).set 7 (s.areg n + 4)
        pc := s.pc + 2 })

/-- MOVEM: the registers of the mask, bit 0 for D0 first and bit 15 for A7 last, against consecutive
long words (40 R207). A store whose bus cycle ends in an error stays pending and the next register
follows: the model's deduction, log 31. That the base register keeps its value is the spec's
inference; what each store leaves is `Stored`: decisions D6 and D8, logs 8, 10 and 13. -/
def Obligations.MoveMultiple : Prop :=
  ∀ (s : State) (mask : Word) (ea : Ea) (a : Long),
    let regs := maskRegs mask
    ea.isIndOrDisp = true → eaAddr ea .long s = some a →
    (regs = [] ∨ aligned a .long s = true →
      ∃ t, StoredLongs a s t (regs.map s.reg) ∧
        ((∀ k, k < regs.length → writable (a + BitVec.ofNat 32 (4 * k)) .long s = true) →
          t.mem = storeLongs s.mem a (regs.map s.reg) ∧ t.writeBuffer = s.writeBuffer) ∧
        exec (.movemStore mask ea) s = .next { t with
          pc := s.pc + BitVec.ofNat 32 (4 + 2 * ea.words .long) }) ∧
    ((∀ k, k < regs.length → readable (a + BitVec.ofNat 32 (4 * k)) .long s = true) →
      exec (.movemLoad mask ea) s = .next { loadLongs a s regs with
        pc := s.pc + BitVec.ofNat 32 (4 + 2 * ea.words .long) })

/-! ## Integer arithmetic -/

/-- ADD, SUB and CMP of an operand and Dn: 32-bit results, and all flags by exact arithmetic; X
follows C but for CMP (41 R230, R231, R237, R248). -/
def Obligations.AddSubCompareRegister : Prop :=
  ∀ (s : State) (ea : Ea) (n : RegNum), eaReadable ea .long s = true →
    let v := eaValue ea .long s
    let d := s.dreg n
    let next := s.pc + BitVec.ofNat 32 (2 + 2 * ea.words .long)
    exec (.addToDn n ea) s = .next { eaAfter ea .long s with
      d := s.d.set n (exactSum v d 0), sr := withX (addCcr s.sr v d 0), pc := next } ∧
    exec (.subToDn n ea) s = .next { eaAfter ea .long s with
      d := s.d.set n (exactDiff v d 0), sr := withX (subCcr s.sr v d 0), pc := next } ∧
    exec (.cmp ea n) s = .next { eaAfter ea .long s with
      sr := subCcr s.sr v d 0, pc := next }

/-- The immediate and register forms: ADDI, SUBI, CMPI, ADDQ and SUBQ on a data register, NEG, and
the extended ADDX, SUBX, NEGX, which take X in and only ever clear Z (41 R233 to R235, R239, R246,
R247, R250 to R252). -/
def Obligations.ImmediateAndExtendedArithmetic : Prop :=
  ∀ (s : State) (n m : RegNum) (v : Long) (q : BitVec 3),
    let d := s.dreg n
    let k := BitVec.ofNat 32 (if q = 0 then 8 else q.toNat)
    exec (.addq q (.dn n)) s = .next { s with
      d := s.d.set n (exactSum k d 0), sr := withX (addCcr s.sr k d 0), pc := s.pc + 2 } ∧
    exec (.subq q (.dn n)) s = .next { s with
      d := s.d.set n (exactDiff k d 0), sr := withX (subCcr s.sr k d 0), pc := s.pc + 2 } ∧
    wordsAre (0x0680 + n.val) v (.addi n v) ∧ wordsAre (0x0480 + n.val) v (.subi n v) ∧
    wordsAre (0x0C80 + n.val) v (.cmpi n v) ∧ wordIs (0x4480 + n.val) (.neg n) ∧
    wordIs (0xD180 + n.val * 512 + m.val) (.addx m n) ∧
    wordIs (0x9180 + n.val * 512 + m.val) (.subx m n) ∧ wordIs (0x4080 + n.val) (.negx n) ∧
    exec (.addi n v) s = .next { s with
      d := s.d.set n (exactSum v d 0), sr := withX (addCcr s.sr v d 0), pc := s.pc + 6 } ∧
    exec (.subi n v) s = .next { s with
      d := s.d.set n (exactDiff v d 0), sr := withX (subCcr s.sr v d 0), pc := s.pc + 6 } ∧
    exec (.cmpi n v) s = .next { s with sr := subCcr s.sr v d 0, pc := s.pc + 6 } ∧
    exec (.neg n) s = .next { s with
      d := s.d.set n (exactDiff d 0 0), sr := withX (subCcr s.sr d 0 0), pc := s.pc + 2 } ∧
    exec (.addx m n) s = .next { s with
      d := s.d.set n (exactSum (s.dreg m) d s.sr.x.toNat)
      sr := withX (stickyZ s.sr (addCcr s.sr (s.dreg m) d s.sr.x.toNat))
      pc := s.pc + 2 } ∧
    exec (.subx m n) s = .next { s with
      d := s.d.set n (exactDiff (s.dreg m) d s.sr.x.toNat)
      sr := withX (stickyZ s.sr (subCcr s.sr (s.dreg m) d s.sr.x.toNat))
      pc := s.pc + 2 } ∧
    exec (.negx n) s = .next { s with
      d := s.d.set n (exactDiff d 0 s.sr.x.toNat)
      sr := withX (stickyZ s.sr (subCcr s.sr d 0 s.sr.x.toNat))
      pc := s.pc + 2 }

/-- Arithmetic on address registers: ADDA, SUBA, ADDQ and SUBQ change no flag, CMPA no register;
the address register is read after the operand's own update (41 R232, R234, R238, R249, R251).
That ADDA and SUBA read An after the update of a source (An)+ or -(An) on it is not in R232 and
R249: it is the model's deduction from the spec's own decision D13 (30_encoding R125), log 35. -/
def Obligations.AddressArithmetic : Prop :=
  ∀ (s : State) (n : RegNum),
    (∀ ea : Ea, eaReadable ea .long s = true →
      let t := eaAfter ea .long s
      let v := eaValue ea .long s
      let next := s.pc + BitVec.ofNat 32 (2 + 2 * ea.words .long)
      exec (.adda ea n) s = .next { t with a := t.a.set n (exactSum v (t.areg n) 0), pc := next } ∧
      exec (.suba ea n) s = .next { t with a := t.a.set n (exactDiff v (t.areg n) 0), pc := next } ∧
      exec (.cmpa ea n) s = .next { t with sr := subCcr s.sr v (t.areg n) 0, pc := next }) ∧
    (∀ q : BitVec 3,
      let k := BitVec.ofNat 32 (if q = 0 then 8 else q.toNat)
      exec (.addq q (.an n)) s = .next { s with
        a := s.a.set n (exactSum k (s.areg n) 0), pc := s.pc + 2 } ∧
      exec (.subq q (.an n)) s = .next { s with
        a := s.a.set n (exactDiff k (s.areg n) 0), pc := s.pc + 2 })

/-- The four multiplications: the exact product of the 16-bit operands, the low 32 bits of that
of the 32-bit ones; V and C cleared (41 R242 to R245). -/
def Obligations.Multiplication : Prop :=
  ∀ (s : State) (ea : Ea) (n : RegNum),
    let d := s.dreg n
    (eaReadable ea .word s = true →
      let v := eaValue ea .word s
      let next := s.pc + BitVec.ofNat 32 (2 + 2 * ea.words .word)
      let p := BitVec.ofInt 32 ((v.setWidth 16).toInt * (d.setWidth 16).toInt)
      let q := BitVec.ofNat 32 ((v.toNat % 2 ^ 16) * (d.toNat % 2 ^ 16))
      exec (.mulsW ea n) s = .next { eaAfter ea .word s with
        d := s.d.set n p, sr := moveCcr s.sr p .long, pc := next } ∧
      exec (.muluW ea n) s = .next { eaAfter ea .word s with
        d := s.d.set n q, sr := moveCcr s.sr q .long, pc := next }) ∧
    (eaReadable ea .long s = true →
      let v := eaValue ea .long s
      let next := s.pc + BitVec.ofNat 32 (4 + 2 * ea.words .long)
      let p := BitVec.ofInt 32 (v.toInt * d.toInt)
      let q := BitVec.ofNat 32 (v.toNat * d.toNat)
      exec (.mulsL n ea) s = .next { eaAfter ea .long s with
        d := s.d.set n p, sr := moveCcr s.sr p .long, pc := next } ∧
      exec (.muluL n ea) s = .next { eaAfter ea .long s with
        d := s.d.set n q, sr := moveCcr s.sr q .long, pc := next })

/-- EXT.W, EXT.L, EXTB.L and SWAP (41 R240, R241, 43 R296). That EXT.W keeps the upper word and
takes its flags from the word result is an inference of the spec. -/
def Obligations.ExtendAndSwap : Prop :=
  ∀ (s : State) (n : RegNum),
    let d := s.dreg n
    let b : Long := (d.setWidth 8).signExtend 32
    let w : Long := (d.setWidth 16).signExtend 32
    let x := BitVec.ofNat 32 (d.toNat % 2 ^ 16 * 2 ^ 16 + d.toNat / 2 ^ 16)
    exec (.extW n) s = .next { s with
      d := s.d.set n (replaceLow d b .word), sr := moveCcr s.sr b .word, pc := s.pc + 2 } ∧
    exec (.extL n) s = .next { s with
      d := s.d.set n w, sr := moveCcr s.sr w .long, pc := s.pc + 2 } ∧
    exec (.extbL n) s = .next { s with
      d := s.d.set n b, sr := moveCcr s.sr b .long, pc := s.pc + 2 } ∧
    exec (.swap n) s = .next { s with
      d := s.d.set n x, sr := moveCcr s.sr x .long, pc := s.pc + 2 }

/-- CLR and TST: zero into the operand's bytes without a read; the flags of the operand (41 R236,
45 R342), also if the write's error stays pending (20_memory R67). What a store leaves is `Stored`:
decisions D6 and D8, logs 8, 10 and 13. -/
def Obligations.ClearAndTest : Prop :=
  ∀ (s : State) (sz : Size) (ea : Ea),
    let next := s.pc + BitVec.ofNat 32 (2 + 2 * ea.words sz)
    (∀ n, ea = .dn n → exec (clrInstr sz ea) s = .next { s with
      d := s.d.set n (replaceLow (s.dreg n) 0 sz), sr := moveCcr s.sr 0 sz, pc := next }) ∧
    (∀ a, eaIndexValid ea = true → eaAddr ea sz s = some a → aligned a sz s = true →
      ∃ t, Stored a sz 0 s t ∧ exec (clrInstr sz ea) s = .next { t with
        a := (eaAfter ea sz s).a, sr := moveCcr s.sr 0 sz, pc := next }) ∧
    (eaReadable ea sz s = true → exec (tstInstr sz ea) s = .next { eaAfter ea sz s with
      sr := moveCcr s.sr (eaValue ea sz s) sz, pc := next })

/-! ## Logical, shift and bit instructions -/

/-- AND and OR into Dn; ANDI, ORI, EORI, NOT, and EOR on a data register (42 R270 to R277). -/
def Obligations.LogicalOnRegister : Prop :=
  ∀ (s : State) (n : RegNum),
    let d := s.dreg n
    (∀ ea : Ea, eaReadable ea .long s = true →
      let v := eaValue ea .long s
      let next := s.pc + BitVec.ofNat 32 (2 + 2 * ea.words .long)
      exec (.andToDn n ea) s = .next { eaAfter ea .long s with
        d := s.d.set n (d &&& v), sr := moveCcr s.sr (d &&& v) .long, pc := next } ∧
      exec (.orToDn n ea) s = .next { eaAfter ea .long s with
        d := s.d.set n (d ||| v), sr := moveCcr s.sr (d ||| v) .long, pc := next }) ∧
    (∀ v : Long, wordsAre (0x0280 + n.val) v (.andi n v) ∧ wordsAre (0x0080 + n.val) v (.ori n v) ∧
      wordsAre (0x0A80 + n.val) v (.eori n v) ∧
      exec (.andi n v) s = .next { s with
        d := s.d.set n (d &&& v), sr := moveCcr s.sr (d &&& v) .long, pc := s.pc + 6 } ∧
      exec (.ori n v) s = .next { s with
        d := s.d.set n (d ||| v), sr := moveCcr s.sr (d ||| v) .long, pc := s.pc + 6 } ∧
      exec (.eori n v) s = .next { s with
        d := s.d.set n (d ^^^ v), sr := moveCcr s.sr (d ^^^ v) .long, pc := s.pc + 6 }) ∧
    wordIs (0x4680 + n.val) (.not n) ∧ exec (.not n) s = .next { s with
      d := s.d.set n (~~~d), sr := moveCcr s.sr (~~~d) .long, pc := s.pc + 2 } ∧
    (∀ m : RegNum, exec (.eor m (.dn n)) s = .next { s with
      d := s.d.set n (d ^^^ s.dreg m), sr := moveCcr s.sr (d ^^^ s.dreg m) .long
      pc := s.pc + 2 })

/-- ADD, SUB, AND, OR, EOR of Dn, ADDQ and SUBQ on an operand in memory: one read, one write to
the same address, one update of its register, flags as on a register (41 R231, R234, R248, R251,
42 R270), all done also if the write's error stays pending (20_memory R67). What a store leaves is
`Stored`: decisions D6 and D8, logs 8, 10 and 13. -/
def Obligations.ReadModifyWrite : Prop :=
  ∀ (s : State) (ea : Ea) (a : Long), eaIndexValid ea = true → eaAddr ea .long s = some a →
    readable a .long s = true →
    let m := s.mem.read a .long
    let done := fun (i : Instr) (r : Long) (sr : SR) =>
      ∃ t, Stored a .long r s t ∧ exec i s = .next { t with
        a := (eaAfter ea .long s).a
        sr := sr
        pc := s.pc + BitVec.ofNat 32 (2 + 2 * ea.words .long) }
    (∀ n : RegNum,
      let d := s.dreg n
      done (.addToEa n ea) (exactSum d m 0) (withX (addCcr s.sr d m 0)) ∧
      done (.subToEa n ea) (exactDiff d m 0) (withX (subCcr s.sr d m 0)) ∧
      done (.andToEa n ea) (m &&& d) (moveCcr s.sr (m &&& d) .long) ∧
      done (.orToEa n ea) (m ||| d) (moveCcr s.sr (m ||| d) .long) ∧
      done (.eor n ea) (m ^^^ d) (moveCcr s.sr (m ^^^ d) .long)) ∧
    (∀ q : BitVec 3,
      let k := BitVec.ofNat 32 (if q = 0 then 8 else q.toNat)
      done (.addq q ea) (exactSum k m 0) (withX (addCcr s.sr k m 0)) ∧
      done (.subq q ea) (exactDiff k m 0) (withX (subCcr s.sr k m 0)))

/-- The eight shifts: counts 1 to 8 from the instruction, modulo 64 from a register; the result
and the last bit shifted out in closed form, V cleared, a count of zero clearing C and keeping X
(43 R290 to R295). The counts of 32 to 63 (R291) and the count register's being read before the
write (R290) are the spec's inferences. -/
def Obligations.Shifts : Prop :=
  ∀ (s : State) (op : ShiftOp) (n : RegNum),
    (∀ q : BitVec 3,
      let c := if q = 0 then 8 else q.toNat
      wordIs (shiftWord op q.toNat 0 n.val) (shiftImmInstr op q n) ∧
      exec (shiftImmInstr op q n) s = .next { s with
        d := s.d.set n (shiftedBy op c (s.dreg n)).1
        sr := shiftCcr s.sr op c (s.dreg n)
        pc := s.pc + 2 }) ∧
    (∀ m : RegNum,
      let c := (s.dreg m).toNat % 64
      wordIs (shiftWord op m.val 1 n.val) (shiftRegInstr op m n) ∧
      exec (shiftRegInstr op m n) s = .next { s with
        d := s.d.set n (shiftedBy op c (s.dreg n)).1
        sr := shiftCcr s.sr op c (s.dreg n)
        pc := s.pc + 2 })

/-- BTST: Z is the inverse of the bit, whose number counts modulo 32 in a data register and modulo
8 in a byte of memory or an immediate; nothing is written (44 R310, R312). That the upper byte of
the bit-number word is ignored is the spec's own decision D11. -/
def Obligations.BitTest : Prop :=
  ∀ (s : State) (r : RegNum) (b : Byte),
    (∀ n : RegNum,
      exec (.btstDyn r (.dn n)) s = .next { s with
        sr := { s.sr with z := !bitOf (s.dreg n) ((s.dreg r).toNat % 32) }, pc := s.pc + 2 } ∧
      exec (.btstImm b (.dn n)) s = .next { s with
        sr := { s.sr with z := !bitOf (s.dreg n) (b.toNat % 32) }, pc := s.pc + 4 }) ∧
    (∀ ea : Ea, (∀ n, ea ≠ .dn n) → eaReadable ea .byte s = true →
      exec (.btstDyn r ea) s = .next { eaAfter ea .byte s with
        sr := { s.sr with z := !bitOf (eaValue ea .byte s) ((s.dreg r).toNat % 8) }
        pc := s.pc + BitVec.ofNat 32 (2 + 2 * ea.words .byte) } ∧
      exec (.btstImm b ea) s = .next { eaAfter ea .byte s with
        sr := { s.sr with z := !bitOf (eaValue ea .byte s) (b.toNat % 8) }
        pc := s.pc + BitVec.ofNat 32 (4 + 2 * ea.words .byte) })

/-- BCHG, BCLR and BSET: one bit of the register, or of the byte of memory, replaced; Z from the
bit before (44 R310, R313 to R315), also if the write's error stays pending (20_memory R67). What a store
leaves is `Stored`: decisions D6 and D8, logs 8, 10 and 13. -/
def Obligations.BitChange : Prop :=
  ∀ (s : State) (op : BitOp) (r : RegNum) (b : Byte),
    (∀ n : RegNum,
      let d := s.dreg n
      let put := fun k => putBit d k (newBit op (bitOf d k))
      let i := (s.dreg r).toNat % 32
      let j := b.toNat % 32
      exec (bitDynInstr op r (.dn n)) s = .next { s with
        d := s.d.set n (put i), sr := { s.sr with z := !bitOf d i }, pc := s.pc + 2 } ∧
      exec (bitImmInstr op b (.dn n)) s = .next { s with
        d := s.d.set n (put j), sr := { s.sr with z := !bitOf d j }, pc := s.pc + 4 }) ∧
    (∀ (ea : Ea) (a : Long), eaIndexValid ea = true → eaAddr ea .byte s = some a →
      readable a .byte s = true →
      let v := s.mem.read a .byte
      let put := fun k => putBit v k (newBit op (bitOf v k))
      let i := (s.dreg r).toNat % 8
      let j := b.toNat % 8
      (∃ t, Stored a .byte (put i) s t ∧ exec (bitDynInstr op r ea) s = .next { t with
        a := (eaAfter ea .byte s).a, sr := { s.sr with z := !bitOf v i }
        pc := s.pc + BitVec.ofNat 32 (2 + 2 * ea.words .byte) }) ∧
      (∃ t, Stored a .byte (put j) s t ∧ exec (bitImmInstr op b ea) s = .next { t with
        a := (eaAfter ea .byte s).a, sr := { s.sr with z := !bitOf v j }
        pc := s.pc + BitVec.ofNat 32 (4 + 2 * ea.words .byte) }))

/-! ## Program control -/

/-- BRA and the fourteen conditional branches: taken, to `PC + 2 + displacement`; not taken, on to
the next instruction, whatever the displacement; an odd target of a branch that is taken raises
the address error (45 R330 to R332). That the branch itself takes the address error is the spec's
own decision D17. -/
def Obligations.Branches : Prop :=
  ∀ (s : State) (c : Cond) (d : Disp), c ≠ .f →
    let target := s.pc + 2 + Disp.value d
    (condHolds c s.sr = true → even target = true →
      exec (branchInstr c d) s = .next { s with pc := target }) ∧
    (condHolds c s.sr = false → exec (branchInstr c d) s = .next { s with
      pc := s.pc + BitVec.ofNat 32 (2 + 2 * d.words) }) ∧
    (condHolds c s.sr = true → even target = false →
      exec (branchInstr c d) s = .next (raiseExc (.addressError .oddTarget) s))

/-- JMP, JSR, BSR and RTS (45 R333, R334, R335, R337). JSR's order is the spec's own decision D14;
what a push leaves, an error pending included, is `Stored`: decisions D6 and D8, logs 8, 10 and
13. -/
def Obligations.JumpsAndSubroutines : Prop :=
  ∀ s : State,
    (∀ (ea : Ea) (t : Long), ea.isControl = true → eaIndexValid ea = true →
      eaAddr ea .long s = some t → even t = true →
      exec (.jmp ea) s = .next { s with pc := t } ∧
      (aligned (s.sp - 4) .long s = true → ∃ u,
        Stored (s.sp - 4) .long (s.pc + BitVec.ofNat 32 (2 + 2 * ea.words .long)) s u ∧
        exec (.jsr ea) s = .next { u with a := s.a.set 7 (s.sp - 4), pc := t })) ∧
    (∀ d : Disp, even (s.pc + 2 + Disp.value d) = true → aligned (s.sp - 4) .long s = true →
      ∃ u, Stored (s.sp - 4) .long (s.pc + BitVec.ofNat 32 (2 + 2 * d.words)) s u ∧
      exec (.bsr d) s = .next { u with
        a := s.a.set 7 (s.sp - 4)
        pc := s.pc + 2 + Disp.value d }) ∧
    (readable s.sp .long s = true → even (s.mem.read s.sp .long) = true →
      exec .rts s = .next { s with
        a := s.a.set 7 (s.sp + 4), pc := s.mem.read s.sp .long })

/-- JMP, JSR, BSR and RTS to an odd address: the address error, with nothing pushed and no
register changed (45 R330, 60_exceptions R421). That nothing is done before is the spec's own
decision D17. -/
def Obligations.OddTargetsRaise : Prop :=
  ∀ s : State,
    (∀ (ea : Ea) (t : Long), ea.isControl = true → eaIndexValid ea = true →
      eaAddr ea .long s = some t → even t = false →
      exec (.jmp ea) s = .next (raiseExc (.addressError .oddTarget) s) ∧
      exec (.jsr ea) s = .next (raiseExc (.addressError .oddTarget) s)) ∧
    (∀ d : Disp, even (s.pc + 2 + Disp.value d) = false →
      exec (.bsr d) s = .next (raiseExc (.addressError .oddTarget) s)) ∧
    (readable s.sp .long s = true → even (s.mem.read s.sp .long) = false →
      exec .rts s = .next (raiseExc (.addressError .oddTarget) s))

/-- TRAPF does nothing but advance; NOP with no write error pending too, and fetches after it see
memory (45 R336, R341, 20_memory R81). The lengths of TRAPF are a parameter, decision D19; what
fetches see is decision D8, log 10. -/
def Obligations.TrapfAndNop : Prop :=
  ∀ s : State,
    (∀ o : TrapfOperand,
      exec (.trapf o) s = .next { s with pc := s.pc + BitVec.ofNat 32 (2 + 2 * o.count) } ∧
      exec (.trapfW o) s = .next { s with pc := s.pc + BitVec.ofNat 32 (2 + 2 * o.count) } ∧
      exec (.trapfL o) s = .next { s with pc := s.pc + BitVec.ofNat 32 (2 + 2 * o.count) }) ∧
    (s.writeBuffer = [] → exec .nop s = .next { s with stale := [], pc := s.pc + 2 })

/-! ## System control -/

/-- MOVE from and to SR in supervisor mode, MOVE from and to CCR in either mode (46 R361 to R364).
That written reserved bits are dropped is the spec's own decision D1; what fetches see is decision
D8, log 10. -/
def Obligations.StatusRegisterMoves : Prop :=
  ∀ s : State,
    (∀ n : RegNum,
      (s.sr.s = true → exec (.moveFromSr n) s = .next { s with
        d := s.d.set n (replaceLow (s.dreg n) (s.sr.toWord.setWidth 32) .word)
        stale := [], pc := s.pc + 2 }) ∧
      exec (.moveFromCcr n) s = .next { s with
        d := s.d.set n (replaceLow (s.dreg n) (BitVec.ofNat 32 (s.sr.toWord.toNat % 32)) .word)
        stale := [], pc := s.pc + 2 }) ∧
    (∀ ea : Ea, eaReadable ea .word s = true →
      let v := eaValue ea .word s
      let next := s.pc + BitVec.ofNat 32 (2 + 2 * ea.words .word)
      (s.sr.s = true → exec (.moveToSr ea) s = .next { eaAfter ea .word s with
        sr := SR.ofWord (v.setWidth 16), stale := [], pc := next }) ∧
      exec (.moveToCcr ea) s = .next { eaAfter ea .word s with
        sr := ccrOf s.sr v.toNat, stale := [], pc := next })

/-- MOVEC in supervisor mode: VBR takes bits 31 to 20; of the ten registers with a code of Table 5-2
an implemented one takes the value, the others keep theirs, and the memory map and the contents of
memory become what the platform's unknown function makes of them, no other register or flag changing;
one that the chip lacks does nothing, but for MBAR, which hangs the machine or raises an access error
(46 R365, 10_state R34, R35). The hang, the fault status and the place of the exception are the spec's
own decision D21; that the hang is the run state of the fault-on-fault halt, with the registers kept
and PC after the MOVEC, is the model's deduction, log 15; the form of the unknown function, and that
memory is plain memory again after it, is the model's choice, log 16. -/
def Obligations.MoveControl : Prop :=
  ∀ (s : State) (r : Reg) (rc : BitVec 12), s.sr.s = true →
    let platform := fun c => Config.ctrlWrite c (s.reg r) s.ctrl s.memoryMap s.mem
    (rc = 0x801 → exec (.movec r rc) s = .next { s with
      vbr := BitVec.ofNat 12 ((s.reg r).toNat / 2 ^ 20), stale := [], pc := s.pc + 4 }) ∧
    (∀ c : CtrlReg, (rc, c) ∈ ctrlCodes →
      (s.cfg.implementedCtrl.contains c = true → ∃ regs, ctrlValue c regs = s.reg r ∧
        (∀ c', c' ≠ c → ctrlValue c' regs = ctrlValue c' s.ctrl) ∧
        exec (.movec r rc) s = .next { s with
          ctrl := regs
          memoryMap := (platform c).map
          mem := Memory.ofCells (platform c).cells
          stale := [], pc := s.pc + 4 }) ∧
      (s.cfg.implementedCtrl.contains c = false → c ≠ .mbar →
        exec (.movec r rc) s = .next { s with stale := [], pc := s.pc + 4 }) ∧
      (s.cfg.implementedCtrl.contains c = false → c = .mbar →
        (s.cfg.mbarUnimplemented = .hang →
          exec (.movec r rc) s =
            .next { s with run := .haltedFault, stale := [], pc := s.pc + 4 }) ∧
        (s.cfg.mbarUnimplemented = .accessError →
          exec (.movec r rc) s = .next (raiseExc (.accessWrite 0b1000) s))))

/-- RTE in supervisor mode: from a frame of format 4 to 7 at A7 it restores SR, PC, and A7 to what
it was before the frame was aligned; any other format raises the format error, an odd return address
the address error, and a frame that cannot be read its own error, each with nothing changed (46
R366, 60_exceptions R421, R430). RTE's privilege and the order of its checks are the spec's own
decisions D22 and D23. -/
def Obligations.ReturnFromException : Prop :=
  ∀ s : State, s.sr.s = true →
    let w0 := s.mem.read s.sp .long
    let w1 := s.mem.read (s.sp + 4) .long
    let format := w0.toNat / 2 ^ 28
    (readable s.sp .long s = true → 4 ≤ format → format ≤ 7 →
      (readable (s.sp + 4) .long s = true → even w1 = true →
        exec .rte s = .next { s with
          sr := SR.ofWord (w0.setWidth 16)
          a := s.a.set 7 (s.sp + 8 + BitVec.ofNat 32 (format % 4))
          pc := w1
          stale := [] }) ∧
      (readable (s.sp + 4) .long s = true → even w1 = false →
        exec .rte s = .next (raiseExc (.addressError .oddTarget) s)) ∧
      (readable (s.sp + 4) .long s = false →
        exec .rte s = .next (raiseExc (readFault (s.sp + 4) .long s) s))) ∧
    (readable s.sp .long s = true → format < 4 ∨ 7 < format →
      exec .rte s = .next (takeException 14 s.pc 0 none s)) ∧
    (readable s.sp .long s = false →
      exec .rte s = .next (raiseExc (readFault s.sp .long s) s))

/-- STOP and HALT in supervisor mode with no write error pending: STOP loads SR and stops, or, if
T was set before it, takes the trace exception from after itself; HALT halts (46 R367, R368). The
draining of STOP, the halt without a debug module and the event are the spec's own decisions D24
to D26, log 27. -/
def Obligations.StopAndHalt : Prop :=
  ∀ (s : State) (v : Word), s.sr.s = true → s.writeBuffer = [] →
    (s.sr.t = false → exec (.stop v) s = .next { s with
      sr := SR.ofWord v, run := .stopped, stale := [], pc := s.pc + 4 }) ∧
    (s.sr.t = true → exec (.stop v) s = .next (takeException 9 (s.pc + 4) 0 none { s with
      sr := SR.ofWord v, stale := [], pc := s.pc + 4 })) ∧
    exec .halt s = .next { s with
      run := .haltedByInstruction, debugEvents := s.debugEvents ++ [.halt]
      stale := [], pc := s.pc + 2 }

/-- PULSE and WDDATA where they may run, WDEBUG in supervisor mode: the output events and nothing
else but the operand's register update (46 R369 to R372). The output trace is the spec's own
decision D26, log 27. -/
def Obligations.DebugInstructions : Prop :=
  ∀ s : State,
    (s.cfg.pulseWddataPrivileged = false ∨ s.sr.s = true →
      exec .pulse s = .next { s with
        debugEvents := s.debugEvents ++ [.pulse], stale := [], pc := s.pc + 2 } ∧
      ∀ (sz : Size) (ea : Ea), eaReadable ea sz s = true →
        exec (wddataInstr sz ea) s = .next { eaAfter ea sz s with
          debugEvents := s.debugEvents ++ [.pulse, .ddata sz (eaValue ea sz s)]
          stale := [], pc := s.pc + BitVec.ofNat 32 (2 + 2 * ea.words sz) }) ∧
    (∀ (ea : Ea) (a : Long), s.sr.s = true → ea.isIndOrDisp = true → eaAddr ea .long s = some a →
      a.toNat % 4 = 0 → readable a .long s = true → readable (a + 4) .long s = true →
      exec (.wdebug ea) s = .next { s with
        debugEvents := s.debugEvents ++
          [.wdebug (s.mem.read a .long) (s.mem.read (a + 4) .long)]
        stale := [], pc := s.pc + BitVec.ofNat 32 (4 + 2 * ea.words .long) })

/-- TRAP, the two illegal instructions, line A and line F end in their exceptions: the stacked
program counter is the instruction's own, but after TRAP the next one's (46 R373, 60_exceptions
R415, R422 to R425). What fetches see after entry is the spec's own decision D8; the default of
line F is decision D10. -/
def Obligations.TrappingInstructions : Prop :=
  ∀ s : State,
    (∀ v : BitVec 4, canEnter (32 + v.setWidth 8) (s.pc + 2) 0 s = true →
      exec (.trap v) s = .next (entered (32 + v.setWidth 8) (s.pc + 2) 0 s)) ∧
    (canEnter 4 s.pc 0 s = true →
      exec .illegal4AFC s = .next (entered 4 s.pc 0 s) ∧
      exec .illegal0000 s = .next (entered 4 s.pc 0 s)) ∧
    (canEnter 10 s.pc 0 s = true → ∀ x, exec (.lineA x) s = .next (entered 10 s.pc 0 s)) ∧
    (canEnter 11 s.pc 0 s = true → ∀ x, exec (.lineF x) s = .next (entered 11 s.pc 0 s))

/-- In user mode a privileged instruction has no effect but the privilege violation, vector 8 with
its own address stacked; PULSE and WDDATA too on a chip that makes them privileged (46 R360,
60_exceptions R426). RTE's privilege is the spec's own decision D22. -/
def Obligations.PrivilegeViolations : Prop :=
  ∀ (s : State) (i : Instr), s.sr.s = false → canEnter 8 s.pc 0 s = true →
    (isPrivileged i = true → exec i s = .next (entered 8 s.pc 0 s)) ∧
    (s.cfg.pulseWddataPrivileged = true →
      exec .pulse s = .next (entered 8 s.pc 0 s) ∧
      ∀ sz ea, exec (wddataInstr sz ea) s = .next (entered 8 s.pc 0 s))

/-- NOP, STOP and HALT report the oldest pending write error in place of running, with their own
address stacked (20_memory R67, R75, 70_reset R481). One error at a time, oldest first, is the
model's choice, log 9; the moments are the spec's own decision D6. -/
def Obligations.PendingWriteErrorIsReported : Prop :=
  ∀ (s : State) (p : PendingWrite) (rest : List PendingWrite), s.writeBuffer = p :: rest →
    let t := takeException 2 s.pc p.fs none { s with writeBuffer := rest }
    exec .nop s = .next t ∧
    (s.sr.s = true → (∀ v, exec (.stop v) s = .next t) ∧ exec .halt s = .next t) ∧
    (s.run = .running → s.input.reset = false → s.input.reportWriteError = true →
      step s = .next (boundary s.input
        (takeException 2 s.pc p.fs none { takeInput s with writeBuffer := rest })))

/-! ## Exceptions -/

/-- Exception entry: the two long words of the frame below the aligned stack pointer, S set and T
cleared, for an interrupt the mask at its level, the program counter at the vector's handler,
nothing else (60_exceptions R410 to R413). The order and completion of the frame writes are the
spec's own decisions D5 and D31. -/
def Obligations.ExceptionEntry : Prop :=
  ∀ (vector : Byte) (spc : Long) (fs : BitVec 4) (s : State), canEnter vector spc fs s = true →
    takeException vector spc fs none s = entered vector spc fs s ∧
    ∀ l : BitVec 3, takeException vector spc fs (some l) s = { entered vector spc fs s with
      sr := { s.sr with s := true, t := false, i := l, m := s.sr.m && !s.cfg.irqClearsM } }

/-- An error during exception processing halts the processor (60_exceptions R455). Which accesses
count, and that nothing of the core is known after it, are the spec's own decision D31, log 14. -/
def Obligations.FaultOnFaultHalts : Prop :=
  ∀ (vector : Byte) (spc : Long) (fs : BitVec 4) (level : Option (BitVec 3)) (s : State),
    canEnter vector spc fs s = false → (takeException vector spc fs level s).run = .haltedFault

/-- The frame is aligned whatever A7 is: A7 in the handler is 8 to 11 below what it was, the format
field says how much, the bytes between the frame and the old A7 are not written, and RTE takes A7
back to where it was (60_exceptions R413). -/
def Obligations.FrameIsSelfAligned : Prop :=
  ∀ (vector : Byte) (spc : Long) (fs : BitVec 4) (level : Option (BitVec 3)) (s : State),
    canEnter vector spc fs s = true →
    let t := takeException vector spc fs level s
    let k := s.sp.toNat % 4
    t.sp = s.sp - BitVec.ofNat 32 (8 + k) ∧ t.sp.toNat % 4 = 0 ∧
    (t.mem.read t.sp .long).toNat / 2 ^ 28 = 4 + k ∧
    (∀ j, j < k →
      t.mem.byte ((t.sp.toNat + 8 + j) % 2 ^ 32) = s.mem.byte ((t.sp.toNat + 8 + j) % 2 ^ 32)) ∧
    (even spc = true → readable t.sp .long t = true → readable (t.sp + 4) .long t = true →
      ∃ u, exec .rte t = .next u ∧ u.sp = s.sp)

/-- RTE at a handler's first instruction undoes exception entry, an interrupt's too: every register,
SR with its interrupt mask, the program counter and the stack pointer, aligned or not, are as before
the exception (60_exceptions R413, R460). The hidden fields are those of 60_exceptions R410; what
fetches see is the spec's own decision D8. -/
def Obligations.RteUndoesEntry : Prop :=
  ∀ (vector : Byte) (spc : Long) (fs : BitVec 4) (level : Option (BitVec 3)) (s : State),
    canEnter vector spc fs s = true →
    even spc = true → readable (frameBase s) .long (inHandlerMode s) = true →
    readable (frameBase s + 4) .long (inHandlerMode s) = true →
    exec .rte (takeException vector spc fs level s) = .next { s with
      mem := framed vector spc fs s
      pc := spc
      tracePending := false
      irqInhibit := true
      stale := [] }

/-- Vector, stacked program counter and fault status of each exception that an instruction ends in,
the fault status of an address error being the platform's for its cause if the platform fixes it;
vectors 9 and 12 of trace and the debug interrupt, with the next address stacked; and the vector of
an interrupt by the answer to its acknowledge: the device's, 24 plus the level on a chip with the
autovector module, 24 after a bus error (60_exceptions R401, R414, R415, R421, R431, R432, R442). The
fault status of an address error is otherwise free by the spec's own decision D20, log 11. -/
def Obligations.ExceptionVectors : Prop :=
  ∀ s : State,
    raiseExc .accessFetch s = takeException 2 s.pc 0b0100 none s ∧
    raiseExc .accessRead s = takeException 2 s.pc 0b1100 none s ∧
    (∀ fs, raiseExc (.accessWrite fs) s = takeException 2 s.pc fs none s) ∧
    (s.cfg.addressErrorFs = none → ∀ c, ∃ fs, raiseExc (.addressError c) s =
      takeException 3 s.pc fs none { s with draws := s.draws + 1 }) ∧
    (∀ m, s.cfg.addressErrorFs = some m →
      raiseExc (.addressError .oddTarget) s = takeException 3 s.pc m.oddTarget none s ∧
      raiseExc (.addressError .invalidIndex) s = takeException 3 s.pc m.invalidIndex none s ∧
      raiseExc (.addressError .misalignedRead) s = takeException 3 s.pc m.misalignedRead none s ∧
      raiseExc (.addressError .misalignedWrite) s =
        takeException 3 s.pc m.misalignedWrite none s) ∧
    raiseExc .illegal s = takeException 4 s.pc 0 none s ∧
    raiseExc .privilege s = takeException 8 s.pc 0 none s ∧
    raiseExc .trace s = takeException 9 s.pc 0 none s ∧
    raiseExc .lineA s = takeException 10 s.pc 0 none s ∧
    raiseExc .lineF s = takeException 11 s.pc 0 none s ∧
    raiseExc .format s = takeException 14 s.pc 0 none s ∧
    (∀ v : BitVec 4, raiseExc (.trap v) s =
      takeException (BitVec.ofNat 8 (32 + v.toNat)) (s.pc + 2) 0 none s) ∧
    (∀ inp, s.run = .running →
      (s.tracePending = true → boundary inp s = takeException 9 s.pc 0 none s) ∧
      (s.tracePending = false → s.irqInhibit = false → s.debugIrqPending = true →
        boundary inp s = takeException 12 s.pc 0 none { s with debugIrqPending := false })) ∧
    ∀ level : BitVec 3,
      (∀ n, iackVector s.cfg level (.vector n) = n) ∧
      (s.cfg.hasAutovector = true →
        iackVector s.cfg level .autovector = BitVec.ofNat 8 (24 + level.toNat)) ∧
      iackVector s.cfg level .busError = 24

/-- Operands that fail, with the instruction's own address stacked. An invalid index word, in TST,
LEA or the destination of MOVE: nothing has changed. A read that fails in TST: no flag, and of the
registers only that of (An)+ and -(An). A misaligned destination of MOVE or CLR: the register updates,
no flag, no byte. A misaligned push of PEA, LINK, JSR or BSR: SP decremented, nothing else. A misaligned
store of MOVEM: nothing. A read that fails in MOVEM: the registers loaded so far. In UNLK: A7 has taken
An (20_memory R64, R66, 30_encoding R115, 40 R200, R206 to R209, 45 R333, 60_exceptions R420, R421).
The register updates and the decremented SP before an address error are the spec's own decision D4, the
place of the index check D12, that MOVE checks its destination's word before it reads its source the
model's deduction from it, log 25; MOVEM's registers are D15, UNLK's an inference of the spec. -/
def Obligations.OperandFaultsTrap : Prop :=
  ∀ s : State,
    (∀ (sz : Size) (ea src : Ea) (n : RegNum), eaIndexValid ea = false →
      exec (tstInstr sz ea) s = .next (raiseExc (.addressError .invalidIndex) s) ∧
      exec (.lea ea n) s = .next (raiseExc (.addressError .invalidIndex) s) ∧
      exec (moveInstr sz src ea) s = .next (raiseExc (.addressError .invalidIndex) s)) ∧
    (∀ (sz : Size) (ea : Ea) (a : Long), eaIndexValid ea = true → eaAddr ea sz s = some a →
      readable a sz s = false →
      exec (tstInstr sz ea) s = .next (raiseExc (readFault a sz s) (eaAfter ea sz s))) ∧
    (∀ (sz : Size) (src dst : Ea) (a : Long), eaReadable src sz s = true →
      storesUpdated src dst = false → eaIndexValid dst = true →
      eaAddr dst sz (eaAfter src sz s) = some a → aligned a sz s = false →
      exec (moveInstr sz src dst) s = .next (raiseExc (.addressError .misalignedWrite)
        (eaAfter dst sz (eaAfter src sz s)))) ∧
    (∀ (sz : Size) (ea : Ea) (a : Long), eaIndexValid ea = true → eaAddr ea sz s = some a →
      aligned a sz s = false → exec (clrInstr sz ea) s =
        .next (raiseExc (.addressError .misalignedWrite) (eaAfter ea sz s))) ∧
    (aligned (s.sp - 4) .long s = false →
      let failed := Host.Outcome.next (raiseExc (.addressError .misalignedWrite)
        { s with a := s.a.set 7 (s.sp - 4) })
      (∀ (ea : Ea) (a : Long), ea.isControl = true → eaIndexValid ea = true →
        eaAddr ea .long s = some a →
        exec (.pea ea) s = failed ∧ (even a = true → exec (.jsr ea) s = failed)) ∧
      (∀ (n : RegNum) (d : Word), n ≠ 7 → exec (.link n d) s = failed) ∧
      (∀ d : Disp, even (s.pc + 2 + Disp.value d) = true → exec (.bsr d) s = failed)) ∧
    (∀ (mask : Word) (ea : Ea) (a : Long), ea.isIndOrDisp = true → eaAddr ea .long s = some a →
      maskRegs mask ≠ [] → aligned a .long s = false →
      exec (.movemStore mask ea) s = .next (raiseExc (.addressError .misalignedWrite) s)) ∧
    (∀ (mask : Word) (ea : Ea) (a : Long) (j : Nat), ea.isIndOrDisp = true →
      eaAddr ea .long s = some a → j < (maskRegs mask).length →
      (∀ k, k < j → readable (a + BitVec.ofNat 32 (4 * k)) .long s = true) →
      readable (a + BitVec.ofNat 32 (4 * j)) .long s = false →
      exec (.movemLoad mask ea) s = .next (raiseExc
        (readFault (a + BitVec.ofNat 32 (4 * j)) .long s) (loadLongs a s ((maskRegs mask).take j)))) ∧
    (∀ n : RegNum, n ≠ 7 → readable (s.areg n) .long s = false →
      exec (.unlk n) s = .next (raiseExc (readFault (s.areg n) .long s)
        { s with a := s.a.set 7 (s.areg n) }))

/-! ## Between instructions -/

/-- Trace: T as the instruction begins decides, whatever the instruction makes of it. The instruction
of a running machine completes and the machine still runs: if T was set, the step ends in the trace
exception, before any debug interrupt or interrupt; if T was clear, there is none, and the debug
interrupt or the interrupts follow. An instruction that ended in an exception, which has inhibited
interrupts, is followed by no trace exception whatever T was (60_exceptions R432). That no trace
follows an exception is the spec's own decision D27, the debug interrupt's place D28. -/
def Obligations.TraceExceptionIsTaken : Prop :=
  ∀ (s t : State) (i : Instr) (u : State),
    s.run = .running → s.input.reset = false →
    s.input.reportWriteError = false ∨ s.writeBuffer = [] →
    fetchInstr (beginInstr (takeInput s)) = .ok (.ok i) u → exec i u = .next t →
    t.run = .running →
    (t.irqInhibit = false → s.sr.t = true → step s = .next (takeException 9 t.pc 0 none t)) ∧
    (t.irqInhibit = false → s.sr.t = false → step s = .next
      (if t.debugIrqPending then takeException 12 t.pc 0 none { t with debugIrqPending := false }
       else sampleInterrupts s.input t)) ∧
    (t.irqInhibit = true → step s = .next { t with
      prevIrqLevel := s.input.irqLevel
      nmiLatched := t.nmiLatched || (s.input.irqLevel == 7 && t.prevIrqLevel != 7) })

/-- Interrupts and the debug interrupt, at a boundary with no inhibition: a pending trace comes
first; then a pending debug interrupt, which no mask keeps out and which leaves the mask; then a
transition to level 7, whatever the mask, or another level if it is above the mask; and none
otherwise. The taken one ends the stopped state (60_exceptions R431, R432, R441). The latch is the
spec's own decision D29, all of the debug interrupt's place and effect D28; one sample per step is the
model's choice, log 6. -/
def Obligations.InterruptRecognition : Prop :=
  ∀ (s : State) (inp : EnvInput), s.run = .running ∨ s.run = .stopped → s.irqInhibit = false →
    (s.run = .running → s.tracePending = true →
      boundary inp s = takeException 9 s.pc 0 none s) ∧
    (s.tracePending = false → s.debugIrqPending = true →
      boundary inp s = takeException 12 s.pc 0 none
        { s with debugIrqPending := false, run := .running } ∧
      ((boundary inp s).run = .haltedFault ∨ (boundary inp s).run = .running ∧
        (boundary inp s).sr.i = s.sr.i ∧ (boundary inp s).debugIrqPending = false)) ∧
    (s.tracePending = false → s.debugIrqPending = false →
      let latched := s.nmiLatched || (inp.irqLevel == 7 && s.prevIrqLevel != 7)
      let sampled := { s with prevIrqLevel := inp.irqLevel, nmiLatched := false, run := .running }
      (latched = true → boundary inp s =
        takeException (iackVector s.cfg 7 inp.iack) s.pc 0 (some 7) sampled) ∧
      (latched = false → s.sr.i.toNat < inp.irqLevel.toNat → boundary inp s =
        takeException (iackVector s.cfg inp.irqLevel inp.iack) s.pc 0 (some inp.irqLevel)
          sampled) ∧
      (latched = false → inp.irqLevel.toNat ≤ s.sr.i.toNat → boundary inp s =
        { s with prevIrqLevel := inp.irqLevel, nmiLatched := false }))

/-- Before a handler's first instruction has run no interrupt and no debug interrupt is taken; a
transition to level 7 is remembered (60_exceptions R444). That level 7 is inhibited too is the
spec's own decision D29, the debug interrupt's inhibition D28. -/
def Obligations.InterruptsInhibitedInHandler : Prop :=
  ∀ (s : State) (inp : EnvInput), s.run = .running ∨ s.run = .stopped →
    s.tracePending = false → s.irqInhibit = true →
    boundary inp s = { s with
      prevIrqLevel := inp.irqLevel
      nmiLatched := s.nmiLatched || (inp.irqLevel == 7 && s.prevIrqLevel != 7) }

/-- Halted states, without reset: the fault-on-fault halt is not left; after HALT nothing happens
without "go", nor by it on a chip without the debug module; with both the machine runs again at the
next address, where HALT left the program counter, a pending trace first. Nothing happens means that
the input is consumed, with a request of a debug module that there is remembered (70_reset R474, 46
R368). That no interrupt is recognised while halted, and the trace on resuming, are the spec's own
decision D24; that a halted step is a next state and that "go" needs the debug module are the model's
choice, log 19, the remembered request log 24. -/
def Obligations.HaltedMachineWaits : Prop :=
  ∀ s : State, s.input.reset = false →
    (s.run = .haltedFault → step s = .next (takeInput s)) ∧
    (s.run = .haltedByInstruction → s.input.go = false ∨ s.cfg.hasDebug = false →
      step s = .next (takeInput s)) ∧
    (s.run = .haltedByInstruction → s.input.go = true → s.cfg.hasDebug = true →
      step s = .next (boundary s.input { takeInput s with run := .running }) ∧
      (s.tracePending = true →
        step s = .next (takeException 9 s.pc 0 none { takeInput s with run := .running })) ∧
      (s.tracePending = false → s.debugIrqPending = false → s.input.debugIrq = false →
        s.nmiLatched = false → s.input.irqLevel = 0 →
        step s = .next { s with env := s.env.tail, run := .running, prevIrqLevel := 0 })) ∧
    takeInput s = { s with
      env := s.env.tail
      debugIrqPending := s.debugIrqPending || (s.input.debugIrq && s.cfg.hasDebug) }

/-- Reset from any state: the two long words at 0 and 4, supervisor mode, no tracing, mask 7, VBR
0, memory as before (70_reset R471, R472). The hidden state after it is the spec's own choice
(70_reset R471, log 17). That the reads and the fetch are answered by the memory map in force, which
reset leaves, is the model's choice, log 16; so is that the writes still in the buffer are discarded,
so that it is empty and memory as before, where R471 leaves discarding or completing each, log 32. -/
def Obligations.ResetTakesVectors : Prop :=
  ∀ (s u : State), u = { s with sr := { s.sr with s := true } } → s.input.reset = true →
    let start := s.mem.read 4 .long
    readable 0 .long u = true → readable 4 .long u = true → even start = true →
    u.canFetch start = true →
      ∃ t, step s = .next t ∧ t.sr.s = true ∧ t.sr.t = false ∧ t.sr.i = 7 ∧ t.vbr = 0 ∧
        t.sp = s.mem.read 0 .long ∧ t.pc = start ∧ t.mem = s.mem ∧
        t.run = .running ∧ t.tracePending = false ∧ t.irqInhibit = true ∧
        t.nmiLatched = false ∧ t.debugIrqPending = false ∧
        t.prevIrqLevel = s.input.irqLevel ∧ t.writeBuffer = []

/-- A fault between reset and the first instruction halts the machine: an error on the read at 0
or at 4, an odd start address, or an error on the fetch of the first operation word; and only
another reset leaves that state (70_reset R473). That a step of the halted machine is a next state
is the model's choice, log 19; that reset reads through the memory map in force, log 16. -/
def Obligations.ResetFaultsHalt : Prop :=
  ∀ (s u : State), u = { s with sr := { s.sr with s := true } } → s.input.reset = true →
    let start := s.mem.read 4 .long
    readable 0 .long u = false ∨ readable 4 .long u = false ∨ even start = false ∨
      u.canFetch start = false →
    ∃ t, step s = .next t ∧ t.run = .haltedFault ∧
      (t.input.reset = false → ∃ v, step t = .next v ∧ v.run = .haltedFault)

/-! ## The whole machine -/

/-- The machine right after reset satisfies the invariant. The unwritten memory is the model's
choice, logs 1 and 3. -/
def Obligations.ResetHasInvariant : Prop :=
  Inv State.reset

/-- Every step, of any instruction, exception, interrupt or reset, keeps the invariant: memory in
its canonical form, an even program counter, and what STOP and HALT guarantee. The form of memory
and of the pending writes is the model's choice, logs 1 and 8; STOP's draining the spec's own
decision D25. -/
def Obligations.StepKeepsInvariant : Prop :=
  ∀ s t : State, Inv s → step s = .next t → Inv t

/-- User mode is confined: a step from user mode without reset either leaves VBR, the control
registers, the memory map and the whole system byte of SR alone, or has taken an exception into
supervisor mode, whose handler comes from the vector table and which changes none of the first
three; or the machine is in the fault-on-fault halt (10_state R27, 46 R360). The contents of the
fault-on-fault halt are unknown by the spec's own decision D31. -/
def Obligations.UserModeIsConfined : Prop :=
  ∀ s t : State, s.run = .running → s.input.reset = false → s.sr.s = false →
    step s = .next t → t.run ≠ .haltedFault →
    sameProtected s t ∨
      (t.sr.s = true ∧ t.sr.t = false ∧ t.irqInhibit = true ∧ t.vbr = s.vbr ∧ t.ctrl = s.ctrl ∧
        t.memoryMap = s.memoryMap ∧
        ∃ vector, t.pc = t.mem.read (vectorSlot vector s) .long)

/-- Every well-formed instruction runs, in every state, but for the four open cases. Which cases
are open is the spec's own decisions D16, D21 and D26. -/
def Obligations.WellFormedInstructionsRun : Prop :=
  ∀ (i : Instr) (s : State), i.wf s.cfg = true → isOpenCase i s = false →
    ∃ t, exec i s = .next t

/-- The open cases, which the spec gives no effect: LINK A7, UNLK A7, and in supervisor mode MOVEC
to an undefined code and WDEBUG off a multiple of 4 (40 R208, R209, 46 R365, R371). The refusals
are the spec's own decisions D16, D21 and D26, log 21. -/
def Obligations.OpenCasesAreRefused : Prop :=
  ∀ s : State,
    (∀ d, exec (.link 7 d) s = .refused .linkA7) ∧
    exec (.unlk 7) s = .refused .unlkA7 ∧
    (∀ r rc, s.sr.s = true → isOpenCase (.movec r rc) s = true →
      exec (.movec r rc) s = .refused (.movecUndefined rc)) ∧
    (∀ ea, s.sr.s = true → ea.isIndOrDisp = true → isOpenCase (.wdebug ea) s = true →
      exec (.wdebug ea) s = .refused .wdebugMisaligned)

/-- No step changes the parameters of the chip, and each consumes one input. The parameters and
inputs as fields are the model's choice, logs 4 and 6. -/
def Obligations.StepKeepsParameters : Prop :=
  ∀ s t : State, step s = .next t → t.cfg = s.cfg ∧ t.env = s.env.tail
end

