-- ==== Sys2Proof/Laws/Flags.lean ====
section
/-! SUPPORT. The flag computations against exact arithmetic, and the status register as a word. -/

namespace Sys2Proof.Machine

theorem sign_bit (v : Long) : v.getLsbD 31 = decide (2 ^ 31 ≤ v.toNat) := by
  have h := BitVec.msb_eq_decide v
  rw [BitVec.msb_eq_getLsbD_last] at h
  simpa using h

theorem sign_bit_toInt (v : Long) : v.getLsbD 31 = decide (v.toInt < 0) := by
  rw [sign_bit, BitVec.toInt_eq_toNat_cond]
  have := v.isLt
  split <;> simp only [decide_eq_decide] <;> omega

theorem toInt_cases (v : Long) :
    (v.getLsbD 31 = false ∧ v.toInt = v.toNat ∧ v.toNat < 2 ^ 31) ∨
      (v.getLsbD 31 = true ∧ v.toInt = v.toNat - 2 ^ 32 ∧ 2 ^ 31 ≤ v.toNat) := by
  have := v.isLt
  rw [sign_bit, BitVec.toInt_eq_toNat_cond]
  by_cases h : 2 ^ 31 ≤ v.toNat
  · right; refine ⟨by simpa using h, ?_, h⟩; rw [if_neg (by omega)]; norm_num
  · left; refine ⟨by simpa using h, ?_, by omega⟩; rw [if_pos (by omega)]

theorem setWidth_ofBool_toNat (x : Bool) : ((BitVec.ofBool x).setWidth 32 : Long).toNat = x.toNat := by
  cases x <;> rfl

theorem addFlags_r (s d : Long) (x : Bool) : (addFlags s d x).r = exactSum s d x.toNat := by
  apply BitVec.eq_of_toNat_eq
  simp [addFlags, exactSum, BitVec.toNat_add]

theorem subFlags_r (s d : Long) (x : Bool) : (subFlags s d x).r = exactDiff s d x.toNat := by
  apply BitVec.eq_of_toNat_eq
  have hx : x.toNat ≤ 1 := Bool.toNat_le x
  have hs := s.isLt
  have hd := d.isLt
  simp only [subFlags, exactDiff, BitVec.toNat_sub, BitVec.toNat_ofInt, setWidth_ofBool_toNat]
  omega

theorem exactSum_toNat (s d : Long) (x : Nat) :
    (exactSum s d x).toNat = (d.toNat + s.toNat + x) % 2 ^ 32 := by
  simp [exactSum]

theorem exactDiff_toNat (s d : Long) (x : Nat) :
    ((exactDiff s d x).toNat : Int) = ((d.toNat : Int) - s.toNat - x) % 2 ^ 32 := by
  simp only [exactDiff, BitVec.toNat_ofInt]
  omega

theorem addFlags_v (s d : Long) (x : Bool) :
    (addFlags s d x).v = !fitsSigned (d.toInt + s.toInt + x.toNat) := by
  have hx : x.toNat ≤ 1 := Bool.toNat_le x
  have hr := exactSum_toNat s d x.toNat
  have e : (addFlags s d x).v = (s.getLsbD 31 == d.getLsbD 31 &&
      (exactSum s d x.toNat).getLsbD 31 != s.getLsbD 31) := by rw [← addFlags_r]; rfl
  rw [e]
  obtain ⟨h1, h2, h3⟩ | ⟨h1, h2, h3⟩ := toInt_cases s <;>
  obtain ⟨g1, g2, g3⟩ | ⟨g1, g2, g3⟩ := toInt_cases d <;>
  obtain ⟨k1, k2, k3⟩ | ⟨k1, k2, k3⟩ := toInt_cases (exactSum s d x.toNat) <;>
  (rw [h1, g1, k1, h2, g2]; simp [fitsSigned]; omega)

theorem subFlags_v (s d : Long) (x : Bool) :
    (subFlags s d x).v = !fitsSigned (d.toInt - s.toInt - x.toNat) := by
  have hx : x.toNat ≤ 1 := Bool.toNat_le x
  have hr := exactDiff_toNat s d x.toNat
  have e : (subFlags s d x).v = (s.getLsbD 31 != d.getLsbD 31 &&
      (exactDiff s d x.toNat).getLsbD 31 != d.getLsbD 31) := by rw [← subFlags_r]; rfl
  rw [e]
  obtain ⟨h1, h2, h3⟩ | ⟨h1, h2, h3⟩ := toInt_cases s <;>
  obtain ⟨g1, g2, g3⟩ | ⟨g1, g2, g3⟩ := toInt_cases d <;>
  obtain ⟨k1, k2, k3⟩ | ⟨k1, k2, k3⟩ := toInt_cases (exactDiff s d x.toNat) <;>
  (rw [h1, g1, k1, h2, g2]; simp [fitsSigned]; omega)

/-- The flags of a comparison. -/
theorem compare_eq (sr : SR) (s d : Long) : sr.compare (subFlags s d false) = subCcr sr s d 0 := by
  have hr := subFlags_r s d false
  have hv := subFlags_v s d false
  have hc : (subFlags s d false).c = decide (d.toNat < s.toNat + 0) := rfl
  simp only [Bool.toNat_false] at hr hv
  simp only [SR.compare, subCcr, hr, hv, hc, sign_bit_toInt]

/-- The flags of ADD and its relatives. -/
theorem arith_add_eq (sr : SR) (s d : Long) :
    sr.arith (addFlags s d false) = withX (addCcr sr s d 0) := by
  have hr := addFlags_r s d false
  have hv := addFlags_v s d false
  have hc : (addFlags s d false).c = decide (2 ^ 32 ≤ s.toNat + d.toNat + 0) := rfl
  simp only [Bool.toNat_false] at hr hv
  simp only [SR.arith, addCcr, withX, hr, hv, hc, sign_bit_toInt]
  simp [Nat.add_comm]

/-- The flags of SUB and its relatives. -/
theorem arith_sub_eq (sr : SR) (s d : Long) :
    sr.arith (subFlags s d false) = withX (subCcr sr s d 0) := by
  have hr := subFlags_r s d false
  have hv := subFlags_v s d false
  have hc : (subFlags s d false).c = decide (d.toNat < s.toNat + 0) := rfl
  simp only [Bool.toNat_false] at hr hv
  simp only [SR.arith, subCcr, withX, hr, hv, hc, sign_bit_toInt]

/-- The flags of ADDX. -/
theorem arithX_add_eq (sr : SR) (s d : Long) (x : Bool) :
    sr.arithX (addFlags s d x) = withX (stickyZ sr (addCcr sr s d x.toNat)) := by
  have hr := addFlags_r s d x
  have hv := addFlags_v s d x
  have hc : (addFlags s d x).c = decide (2 ^ 32 ≤ s.toNat + d.toNat + x.toNat) := rfl
  simp only [SR.arithX, addCcr, withX, stickyZ, hr, hv, hc, sign_bit_toInt]
  simp [Nat.add_comm]

/-- The flags of SUBX and NEGX. -/
theorem arithX_sub_eq (sr : SR) (s d : Long) (x : Bool) :
    sr.arithX (subFlags s d x) = withX (stickyZ sr (subCcr sr s d x.toNat)) := by
  have hr := subFlags_r s d x
  have hv := subFlags_v s d x
  have hc : (subFlags s d x).c = decide (d.toNat < s.toNat + x.toNat) := rfl
  simp only [SR.arithX, subCcr, withX, stickyZ, hr, hv, hc, sign_bit_toInt]

/-- The low bytes of a value, as bits and as a remainder. -/
theorem truncateTo_eq (v : Long) (sz : Size) : truncateTo v sz = lowBytes v sz := by
  apply BitVec.eq_of_toNat_eq
  have := v.isLt
  cases sz <;> simp [truncateTo, lowBytes, Size.bytes, BitVec.extractLsb'_toNat]; omega

/-- The flags of MOVE and the logical instructions. -/
theorem logic_eq (sr : SR) (v : Long) (sz : Size) : sr.logic v sz = moveCcr sr v sz := by
  have hz : decide (truncateTo v sz = 0) = decide (v.toNat % 2 ^ (8 * sz.bytes) = 0) := by
    rw [truncateTo_eq, decide_eq_decide, ← BitVec.toNat_inj]
    have := v.isLt
    cases sz <;> simp [lowBytes, Size.bytes] <;> omega
  have hn : msbOf v sz =
      decide (2 ^ (8 * sz.bytes - 1) ≤ v.toNat % 2 ^ (8 * sz.bytes)) := by
    have := v.isLt
    have bit (k : Nat) : v.getLsbD k = decide (v.toNat / 2 ^ k % 2 = 1) := by
      rw [BitVec.getLsbD, Nat.testBit_eq_decide_div_mod_eq]
    cases sz
    · rw [msbOf, bit, decide_eq_decide]; norm_num [Size.bytes]; omega
    · rw [msbOf, bit, decide_eq_decide]; norm_num [Size.bytes]; omega
    · rw [msbOf, bit, decide_eq_decide]; norm_num [Size.bytes]; omega
  simp only [SR.logic, moveCcr, hz, hn]

end Sys2Proof.Machine
end

