-- ==== Sys2Proof/Laws/Memory.lean ====
section
/-! SUPPORT. Memory: a byte read after a byte written, long words, and the canonical form. -/

namespace Sys2Proof.Machine

/-! ## One byte -/

theorem lookup_removeCell (m : Memory) (a b : Nat) :
    lookup b (removeCell a m) = if a = b then none else lookup b m := by
  induction m with
  | nil => simp [removeCell, lookup]
  | cons c m ih =>
    obtain ⟨k, v⟩ := c
    by_cases h : k = a
    · subst h; simp only [removeCell, if_true, ih, lookup]; split <;> rfl
    · simp only [removeCell, h, if_false, lookup, ih]
      by_cases hb : k = b
      · subst hb; simp [Ne.symm h]
      · simp [hb]

theorem lookup_insertCell (m : Memory) (a b : Nat) (v : Byte) (h : lookup a m = none) :
    lookup b (insertCell a v m) = if a = b then some v else lookup b m := by
  induction m with
  | nil => simp [insertCell, lookup]
  | cons c m ih =>
    obtain ⟨k, w⟩ := c
    have hk : k ≠ a := by rintro rfl; simp [lookup] at h
    simp only [lookup, hk, if_false] at h
    simp only [insertCell]
    split
    · simp only [lookup]
    · simp only [lookup, ih h]
      by_cases hb : k = b
      · subst hb; simp [Ne.symm hk]
      · simp [hb]

/-- What `setByte` does to every byte. -/
theorem byte_setByte (m : Memory) (a b : Nat) (v : Byte) :
    (m.setByte a v).byte b = if a = b then v else m.byte b := by
  have h : lookup a (removeCell a m) = none := by simp [lookup_removeCell]
  unfold Memory.setByte Memory.byte
  split
  · next hv => simp only [lookup_removeCell]; split <;> simp_all
  · simp only [lookup_insertCell _ _ _ _ h, lookup_removeCell]; split <;> simp_all

/-! ## Operands -/

/-- The bytes of an operand are at different addresses, wrapping included. -/
theorem toNat_add_ne (a : Long) {i j : Nat} (hi : i < 4) (hj : j < 4) (h : i ≠ j) :
    (a + BitVec.ofNat 32 i).toNat ≠ (a + BitVec.ofNat 32 j).toNat := by
  simp only [BitVec.toNat_add, BitVec.toNat_ofNat]; omega

/-- The bytes after a write of an operand that a byte of the operand is not. -/
theorem byte_write_of_not_mem (m : Memory) (a : Long) (sz : Size) (v : Long) (b : Nat)
    (h : b ∉ byteAddrs a sz) : (m.write a sz v).byte b = m.byte b := by
  cases sz <;> simp only [byteAddrs, List.mem_cons, List.not_mem_nil, or_false, not_or] at h <;>
    simp only [Memory.write, byte_setByte] <;> simp_all [eq_comm]

/-! ## The canonical form -/

theorem wfFrom_mono (m : Memory) {lo lo' : Nat} (h : lo ≤ lo') (hw : Memory.wfFrom lo' m = true) :
    Memory.wfFrom lo m = true := by
  cases m with
  | nil => rfl
  | cons c m =>
    obtain ⟨k, v⟩ := c
    simp only [Memory.wfFrom, Bool.and_eq_true, decide_eq_true_eq] at hw ⊢
    exact ⟨⟨⟨by omega, hw.1.1.2⟩, hw.1.2⟩, hw.2⟩

theorem removeCell_wfFrom (m : Memory) (a lo : Nat) (hw : Memory.wfFrom lo m = true) :
    Memory.wfFrom lo (removeCell a m) = true := by
  induction m generalizing lo with
  | nil => rfl
  | cons c m ih =>
    obtain ⟨k, v⟩ := c
    simp only [Memory.wfFrom, Bool.and_eq_true, decide_eq_true_eq] at hw
    simp only [removeCell]
    split
    · exact wfFrom_mono _ (by omega) (ih _ hw.2)
    · simp only [Memory.wfFrom, Bool.and_eq_true, decide_eq_true_eq]
      exact ⟨hw.1, ih _ hw.2⟩

theorem insertCell_wfFrom (m : Memory) (a lo : Nat) (v : Byte) (hlo : lo ≤ a) (ha : a < 2 ^ 32)
    (hv : v ≠ unwritten) (hl : lookup a m = none) (hw : Memory.wfFrom lo m = true) :
    Memory.wfFrom lo (insertCell a v m) = true := by
  induction m generalizing lo with
  | nil => simp [insertCell, Memory.wfFrom, hlo, hv]; omega
  | cons c m ih =>
    obtain ⟨k, w⟩ := c
    have hk : k ≠ a := by rintro rfl; simp [lookup] at hl
    simp only [lookup, hk, if_false] at hl
    simp only [Memory.wfFrom, Bool.and_eq_true, decide_eq_true_eq] at hw
    simp only [insertCell]
    split
    · next h =>
      simp only [Memory.wfFrom, Bool.and_eq_true, decide_eq_true_eq]
      exact ⟨⟨⟨hlo, ha⟩, by simpa using hv⟩, ⟨⟨by omega, hw.1.1.2⟩, hw.1.2⟩, hw.2⟩
    · next h =>
      simp only [Memory.wfFrom, Bool.and_eq_true, decide_eq_true_eq]
      exact ⟨hw.1, ih _ (by omega) hl hw.2⟩

/-- Every memory operation keeps the canonical form. -/
theorem setByte_wf (m : Memory) (a : Nat) (v : Byte) (ha : a < 2 ^ 32) (hw : m.wf = true) :
    (m.setByte a v).wf = true := by
  unfold Memory.wf Memory.setByte at *
  split
  · exact removeCell_wfFrom _ _ _ hw
  · next hv =>
    exact insertCell_wfFrom _ _ _ _ (Nat.zero_le _) ha hv (by simp [lookup_removeCell])
      (removeCell_wfFrom _ _ _ hw)

theorem write_keeps_wf (m : Memory) (a : Long) (sz : Size) (v : Long) (hw : m.wf = true) :
    (m.write a sz v).wf = true := by
  cases sz <;> simp only [Memory.write] <;> repeat (first | exact hw | apply setByte_wf | exact BitVec.isLt _)

/-- A memory made from any cells is canonical. -/
theorem ofCells_wf (cells : List Host.Cell) : (Memory.ofCells cells).wf = true := by
  suffices h : ∀ m : Memory, m.wf = true →
      Memory.wf (cells.foldl (fun m c => Memory.setByte m (c.1 % 2 ^ 32) c.2) m) = true from h [] rfl
  induction cells with
  | nil => exact fun m h => h
  | cons c cells ih => exact fun m h => ih _ (setByte_wf _ _ _ (Nat.mod_lt _ (by decide)) h)

theorem lookup_of_wfFrom {m : Memory} {lo a : Nat} (h : a < lo) (hw : Memory.wfFrom lo m = true) :
    lookup a m = none := by
  induction m generalizing lo with
  | nil => rfl
  | cons c m ih =>
    obtain ⟨k, v⟩ := c
    simp only [Memory.wfFrom, Bool.and_eq_true, decide_eq_true_eq] at hw
    simp only [lookup]
    rw [if_neg (by omega)]
    exact ih (by omega) hw.2

end Sys2Proof.Machine
end

