-- ==== Sys2Proof/Laws/State.lean ====
section
/-! SUPPORT. Every field of the state after each named update. -/

namespace Sys2Proof.Machine

variable (s : State)

/-! ## `State.setD` -/

@[simp] theorem setD_d (n : RegNum) (v : Long) : (s.setD n v).d = s.d.set n v := rfl
@[simp] theorem setD_a (n : RegNum) (v : Long) : (s.setD n v).a = s.a := rfl
@[simp] theorem setD_pc (n : RegNum) (v : Long) : (s.setD n v).pc = s.pc := rfl
@[simp] theorem setD_sr (n : RegNum) (v : Long) : (s.setD n v).sr = s.sr := rfl
@[simp] theorem setD_vbr (n : RegNum) (v : Long) : (s.setD n v).vbr = s.vbr := rfl
@[simp] theorem setD_ctrl (n : RegNum) (v : Long) : (s.setD n v).ctrl = s.ctrl := rfl
@[simp] theorem setD_mem (n : RegNum) (v : Long) : (s.setD n v).mem = s.mem := rfl
@[simp] theorem setD_run (n : RegNum) (v : Long) : (s.setD n v).run = s.run := rfl
@[simp] theorem setD_tracePending (n : RegNum) (v : Long) : (s.setD n v).tracePending = s.tracePending := rfl
@[simp] theorem setD_irqInhibit (n : RegNum) (v : Long) : (s.setD n v).irqInhibit = s.irqInhibit := rfl
@[simp] theorem setD_prevIrqLevel (n : RegNum) (v : Long) : (s.setD n v).prevIrqLevel = s.prevIrqLevel := rfl
@[simp] theorem setD_nmiLatched (n : RegNum) (v : Long) : (s.setD n v).nmiLatched = s.nmiLatched := rfl
@[simp] theorem setD_debugIrqPending (n : RegNum) (v : Long) : (s.setD n v).debugIrqPending = s.debugIrqPending := rfl
@[simp] theorem setD_writeBuffer (n : RegNum) (v : Long) : (s.setD n v).writeBuffer = s.writeBuffer := rfl
@[simp] theorem setD_stale (n : RegNum) (v : Long) : (s.setD n v).stale = s.stale := rfl
@[simp] theorem setD_debugEvents (n : RegNum) (v : Long) : (s.setD n v).debugEvents = s.debugEvents := rfl
@[simp] theorem setD_memoryMap (n : RegNum) (v : Long) : (s.setD n v).memoryMap = s.memoryMap := rfl
@[simp] theorem setD_cfg (n : RegNum) (v : Long) : (s.setD n v).cfg = s.cfg := rfl
@[simp] theorem setD_env (n : RegNum) (v : Long) : (s.setD n v).env = s.env := rfl
@[simp] theorem setD_draws (n : RegNum) (v : Long) : (s.setD n v).draws = s.draws := rfl

/-! ## `State.setA` -/

@[simp] theorem setA_d (n : RegNum) (v : Long) : (s.setA n v).d = s.d := rfl
@[simp] theorem setA_a (n : RegNum) (v : Long) : (s.setA n v).a = s.a.set n v := rfl
@[simp] theorem setA_pc (n : RegNum) (v : Long) : (s.setA n v).pc = s.pc := rfl
@[simp] theorem setA_sr (n : RegNum) (v : Long) : (s.setA n v).sr = s.sr := rfl
@[simp] theorem setA_vbr (n : RegNum) (v : Long) : (s.setA n v).vbr = s.vbr := rfl
@[simp] theorem setA_ctrl (n : RegNum) (v : Long) : (s.setA n v).ctrl = s.ctrl := rfl
@[simp] theorem setA_mem (n : RegNum) (v : Long) : (s.setA n v).mem = s.mem := rfl
@[simp] theorem setA_run (n : RegNum) (v : Long) : (s.setA n v).run = s.run := rfl
@[simp] theorem setA_tracePending (n : RegNum) (v : Long) : (s.setA n v).tracePending = s.tracePending := rfl
@[simp] theorem setA_irqInhibit (n : RegNum) (v : Long) : (s.setA n v).irqInhibit = s.irqInhibit := rfl
@[simp] theorem setA_prevIrqLevel (n : RegNum) (v : Long) : (s.setA n v).prevIrqLevel = s.prevIrqLevel := rfl
@[simp] theorem setA_nmiLatched (n : RegNum) (v : Long) : (s.setA n v).nmiLatched = s.nmiLatched := rfl
@[simp] theorem setA_debugIrqPending (n : RegNum) (v : Long) : (s.setA n v).debugIrqPending = s.debugIrqPending := rfl
@[simp] theorem setA_writeBuffer (n : RegNum) (v : Long) : (s.setA n v).writeBuffer = s.writeBuffer := rfl
@[simp] theorem setA_stale (n : RegNum) (v : Long) : (s.setA n v).stale = s.stale := rfl
@[simp] theorem setA_debugEvents (n : RegNum) (v : Long) : (s.setA n v).debugEvents = s.debugEvents := rfl
@[simp] theorem setA_memoryMap (n : RegNum) (v : Long) : (s.setA n v).memoryMap = s.memoryMap := rfl
@[simp] theorem setA_cfg (n : RegNum) (v : Long) : (s.setA n v).cfg = s.cfg := rfl
@[simp] theorem setA_env (n : RegNum) (v : Long) : (s.setA n v).env = s.env := rfl
@[simp] theorem setA_draws (n : RegNum) (v : Long) : (s.setA n v).draws = s.draws := rfl

/-! ## `State.setSp` -/

@[simp] theorem setSp_d (v : Long) : (s.setSp v).d = s.d := rfl
@[simp] theorem setSp_a (v : Long) : (s.setSp v).a = s.a.set 7 v := rfl
@[simp] theorem setSp_pc (v : Long) : (s.setSp v).pc = s.pc := rfl
@[simp] theorem setSp_sr (v : Long) : (s.setSp v).sr = s.sr := rfl
@[simp] theorem setSp_vbr (v : Long) : (s.setSp v).vbr = s.vbr := rfl
@[simp] theorem setSp_ctrl (v : Long) : (s.setSp v).ctrl = s.ctrl := rfl
@[simp] theorem setSp_mem (v : Long) : (s.setSp v).mem = s.mem := rfl
@[simp] theorem setSp_run (v : Long) : (s.setSp v).run = s.run := rfl
@[simp] theorem setSp_tracePending (v : Long) : (s.setSp v).tracePending = s.tracePending := rfl
@[simp] theorem setSp_irqInhibit (v : Long) : (s.setSp v).irqInhibit = s.irqInhibit := rfl
@[simp] theorem setSp_prevIrqLevel (v : Long) : (s.setSp v).prevIrqLevel = s.prevIrqLevel := rfl
@[simp] theorem setSp_nmiLatched (v : Long) : (s.setSp v).nmiLatched = s.nmiLatched := rfl
@[simp] theorem setSp_debugIrqPending (v : Long) : (s.setSp v).debugIrqPending = s.debugIrqPending := rfl
@[simp] theorem setSp_writeBuffer (v : Long) : (s.setSp v).writeBuffer = s.writeBuffer := rfl
@[simp] theorem setSp_stale (v : Long) : (s.setSp v).stale = s.stale := rfl
@[simp] theorem setSp_debugEvents (v : Long) : (s.setSp v).debugEvents = s.debugEvents := rfl
@[simp] theorem setSp_memoryMap (v : Long) : (s.setSp v).memoryMap = s.memoryMap := rfl
@[simp] theorem setSp_cfg (v : Long) : (s.setSp v).cfg = s.cfg := rfl
@[simp] theorem setSp_env (v : Long) : (s.setSp v).env = s.env := rfl
@[simp] theorem setSp_draws (v : Long) : (s.setSp v).draws = s.draws := rfl

/-! ## `State.setDSized` -/

@[simp] theorem setDSized_d (n : RegNum) (sz : Size) (v : Long) : (s.setDSized n sz v).d = s.d.set n (mergeLow (s.dreg n) v sz) := rfl
@[simp] theorem setDSized_a (n : RegNum) (sz : Size) (v : Long) : (s.setDSized n sz v).a = s.a := rfl
@[simp] theorem setDSized_pc (n : RegNum) (sz : Size) (v : Long) : (s.setDSized n sz v).pc = s.pc := rfl
@[simp] theorem setDSized_sr (n : RegNum) (sz : Size) (v : Long) : (s.setDSized n sz v).sr = s.sr := rfl
@[simp] theorem setDSized_vbr (n : RegNum) (sz : Size) (v : Long) : (s.setDSized n sz v).vbr = s.vbr := rfl
@[simp] theorem setDSized_ctrl (n : RegNum) (sz : Size) (v : Long) : (s.setDSized n sz v).ctrl = s.ctrl := rfl
@[simp] theorem setDSized_mem (n : RegNum) (sz : Size) (v : Long) : (s.setDSized n sz v).mem = s.mem := rfl
@[simp] theorem setDSized_run (n : RegNum) (sz : Size) (v : Long) : (s.setDSized n sz v).run = s.run := rfl
@[simp] theorem setDSized_tracePending (n : RegNum) (sz : Size) (v : Long) : (s.setDSized n sz v).tracePending = s.tracePending := rfl
@[simp] theorem setDSized_irqInhibit (n : RegNum) (sz : Size) (v : Long) : (s.setDSized n sz v).irqInhibit = s.irqInhibit := rfl
@[simp] theorem setDSized_prevIrqLevel (n : RegNum) (sz : Size) (v : Long) : (s.setDSized n sz v).prevIrqLevel = s.prevIrqLevel := rfl
@[simp] theorem setDSized_nmiLatched (n : RegNum) (sz : Size) (v : Long) : (s.setDSized n sz v).nmiLatched = s.nmiLatched := rfl
@[simp] theorem setDSized_debugIrqPending (n : RegNum) (sz : Size) (v : Long) : (s.setDSized n sz v).debugIrqPending = s.debugIrqPending := rfl
@[simp] theorem setDSized_writeBuffer (n : RegNum) (sz : Size) (v : Long) : (s.setDSized n sz v).writeBuffer = s.writeBuffer := rfl
@[simp] theorem setDSized_stale (n : RegNum) (sz : Size) (v : Long) : (s.setDSized n sz v).stale = s.stale := rfl
@[simp] theorem setDSized_debugEvents (n : RegNum) (sz : Size) (v : Long) : (s.setDSized n sz v).debugEvents = s.debugEvents := rfl
@[simp] theorem setDSized_memoryMap (n : RegNum) (sz : Size) (v : Long) : (s.setDSized n sz v).memoryMap = s.memoryMap := rfl
@[simp] theorem setDSized_cfg (n : RegNum) (sz : Size) (v : Long) : (s.setDSized n sz v).cfg = s.cfg := rfl
@[simp] theorem setDSized_env (n : RegNum) (sz : Size) (v : Long) : (s.setDSized n sz v).env = s.env := rfl
@[simp] theorem setDSized_draws (n : RegNum) (sz : Size) (v : Long) : (s.setDSized n sz v).draws = s.draws := rfl

/-! ## `State.setSr` -/

@[simp] theorem setSr_d (r : SR) : (s.setSr r).d = s.d := rfl
@[simp] theorem setSr_a (r : SR) : (s.setSr r).a = s.a := rfl
@[simp] theorem setSr_pc (r : SR) : (s.setSr r).pc = s.pc := rfl
@[simp] theorem setSr_sr (r : SR) : (s.setSr r).sr = r := rfl
@[simp] theorem setSr_vbr (r : SR) : (s.setSr r).vbr = s.vbr := rfl
@[simp] theorem setSr_ctrl (r : SR) : (s.setSr r).ctrl = s.ctrl := rfl
@[simp] theorem setSr_mem (r : SR) : (s.setSr r).mem = s.mem := rfl
@[simp] theorem setSr_run (r : SR) : (s.setSr r).run = s.run := rfl
@[simp] theorem setSr_tracePending (r : SR) : (s.setSr r).tracePending = s.tracePending := rfl
@[simp] theorem setSr_irqInhibit (r : SR) : (s.setSr r).irqInhibit = s.irqInhibit := rfl
@[simp] theorem setSr_prevIrqLevel (r : SR) : (s.setSr r).prevIrqLevel = s.prevIrqLevel := rfl
@[simp] theorem setSr_nmiLatched (r : SR) : (s.setSr r).nmiLatched = s.nmiLatched := rfl
@[simp] theorem setSr_debugIrqPending (r : SR) : (s.setSr r).debugIrqPending = s.debugIrqPending := rfl
@[simp] theorem setSr_writeBuffer (r : SR) : (s.setSr r).writeBuffer = s.writeBuffer := rfl
@[simp] theorem setSr_stale (r : SR) : (s.setSr r).stale = s.stale := rfl
@[simp] theorem setSr_debugEvents (r : SR) : (s.setSr r).debugEvents = s.debugEvents := rfl
@[simp] theorem setSr_memoryMap (r : SR) : (s.setSr r).memoryMap = s.memoryMap := rfl
@[simp] theorem setSr_cfg (r : SR) : (s.setSr r).cfg = s.cfg := rfl
@[simp] theorem setSr_env (r : SR) : (s.setSr r).env = s.env := rfl
@[simp] theorem setSr_draws (r : SR) : (s.setSr r).draws = s.draws := rfl

/-! ## `State.setPc` -/

@[simp] theorem setPc_d (t : Long) : (s.setPc t).d = s.d := rfl
@[simp] theorem setPc_a (t : Long) : (s.setPc t).a = s.a := rfl
@[simp] theorem setPc_pc (t : Long) : (s.setPc t).pc = t := rfl
@[simp] theorem setPc_sr (t : Long) : (s.setPc t).sr = s.sr := rfl
@[simp] theorem setPc_vbr (t : Long) : (s.setPc t).vbr = s.vbr := rfl
@[simp] theorem setPc_ctrl (t : Long) : (s.setPc t).ctrl = s.ctrl := rfl
@[simp] theorem setPc_mem (t : Long) : (s.setPc t).mem = s.mem := rfl
@[simp] theorem setPc_run (t : Long) : (s.setPc t).run = s.run := rfl
@[simp] theorem setPc_tracePending (t : Long) : (s.setPc t).tracePending = s.tracePending := rfl
@[simp] theorem setPc_irqInhibit (t : Long) : (s.setPc t).irqInhibit = s.irqInhibit := rfl
@[simp] theorem setPc_prevIrqLevel (t : Long) : (s.setPc t).prevIrqLevel = s.prevIrqLevel := rfl
@[simp] theorem setPc_nmiLatched (t : Long) : (s.setPc t).nmiLatched = s.nmiLatched := rfl
@[simp] theorem setPc_debugIrqPending (t : Long) : (s.setPc t).debugIrqPending = s.debugIrqPending := rfl
@[simp] theorem setPc_writeBuffer (t : Long) : (s.setPc t).writeBuffer = s.writeBuffer := rfl
@[simp] theorem setPc_stale (t : Long) : (s.setPc t).stale = s.stale := rfl
@[simp] theorem setPc_debugEvents (t : Long) : (s.setPc t).debugEvents = s.debugEvents := rfl
@[simp] theorem setPc_memoryMap (t : Long) : (s.setPc t).memoryMap = s.memoryMap := rfl
@[simp] theorem setPc_cfg (t : Long) : (s.setPc t).cfg = s.cfg := rfl
@[simp] theorem setPc_env (t : Long) : (s.setPc t).env = s.env := rfl
@[simp] theorem setPc_draws (t : Long) : (s.setPc t).draws = s.draws := rfl

/-! ## `State.advance` -/

@[simp] theorem advance_d (i : Instr) : (s.advance i).d = s.d := rfl
@[simp] theorem advance_a (i : Instr) : (s.advance i).a = s.a := rfl
@[simp] theorem advance_pc (i : Instr) : (s.advance i).pc = s.pc + i.ilen := rfl
@[simp] theorem advance_sr (i : Instr) : (s.advance i).sr = s.sr := rfl
@[simp] theorem advance_vbr (i : Instr) : (s.advance i).vbr = s.vbr := rfl
@[simp] theorem advance_ctrl (i : Instr) : (s.advance i).ctrl = s.ctrl := rfl
@[simp] theorem advance_mem (i : Instr) : (s.advance i).mem = s.mem := rfl
@[simp] theorem advance_run (i : Instr) : (s.advance i).run = s.run := rfl
@[simp] theorem advance_tracePending (i : Instr) : (s.advance i).tracePending = s.tracePending := rfl
@[simp] theorem advance_irqInhibit (i : Instr) : (s.advance i).irqInhibit = s.irqInhibit := rfl
@[simp] theorem advance_prevIrqLevel (i : Instr) : (s.advance i).prevIrqLevel = s.prevIrqLevel := rfl
@[simp] theorem advance_nmiLatched (i : Instr) : (s.advance i).nmiLatched = s.nmiLatched := rfl
@[simp] theorem advance_debugIrqPending (i : Instr) : (s.advance i).debugIrqPending = s.debugIrqPending := rfl
@[simp] theorem advance_writeBuffer (i : Instr) : (s.advance i).writeBuffer = s.writeBuffer := rfl
@[simp] theorem advance_stale (i : Instr) : (s.advance i).stale = s.stale := rfl
@[simp] theorem advance_debugEvents (i : Instr) : (s.advance i).debugEvents = s.debugEvents := rfl
@[simp] theorem advance_memoryMap (i : Instr) : (s.advance i).memoryMap = s.memoryMap := rfl
@[simp] theorem advance_cfg (i : Instr) : (s.advance i).cfg = s.cfg := rfl
@[simp] theorem advance_env (i : Instr) : (s.advance i).env = s.env := rfl
@[simp] theorem advance_draws (i : Instr) : (s.advance i).draws = s.draws := rfl

/-! ## `State.emit` -/

@[simp] theorem emit_d (e : DebugEvent) : (s.emit e).d = s.d := rfl
@[simp] theorem emit_a (e : DebugEvent) : (s.emit e).a = s.a := rfl
@[simp] theorem emit_pc (e : DebugEvent) : (s.emit e).pc = s.pc := rfl
@[simp] theorem emit_sr (e : DebugEvent) : (s.emit e).sr = s.sr := rfl
@[simp] theorem emit_vbr (e : DebugEvent) : (s.emit e).vbr = s.vbr := rfl
@[simp] theorem emit_ctrl (e : DebugEvent) : (s.emit e).ctrl = s.ctrl := rfl
@[simp] theorem emit_mem (e : DebugEvent) : (s.emit e).mem = s.mem := rfl
@[simp] theorem emit_run (e : DebugEvent) : (s.emit e).run = s.run := rfl
@[simp] theorem emit_tracePending (e : DebugEvent) : (s.emit e).tracePending = s.tracePending := rfl
@[simp] theorem emit_irqInhibit (e : DebugEvent) : (s.emit e).irqInhibit = s.irqInhibit := rfl
@[simp] theorem emit_prevIrqLevel (e : DebugEvent) : (s.emit e).prevIrqLevel = s.prevIrqLevel := rfl
@[simp] theorem emit_nmiLatched (e : DebugEvent) : (s.emit e).nmiLatched = s.nmiLatched := rfl
@[simp] theorem emit_debugIrqPending (e : DebugEvent) : (s.emit e).debugIrqPending = s.debugIrqPending := rfl
@[simp] theorem emit_writeBuffer (e : DebugEvent) : (s.emit e).writeBuffer = s.writeBuffer := rfl
@[simp] theorem emit_stale (e : DebugEvent) : (s.emit e).stale = s.stale := rfl
@[simp] theorem emit_debugEvents (e : DebugEvent) : (s.emit e).debugEvents = s.debugEvents ++ [e] := rfl
@[simp] theorem emit_memoryMap (e : DebugEvent) : (s.emit e).memoryMap = s.memoryMap := rfl
@[simp] theorem emit_cfg (e : DebugEvent) : (s.emit e).cfg = s.cfg := rfl
@[simp] theorem emit_env (e : DebugEvent) : (s.emit e).env = s.env := rfl
@[simp] theorem emit_draws (e : DebugEvent) : (s.emit e).draws = s.draws := rfl

/-! ## `State.sync` -/

@[simp] theorem sync_d : (s.sync).d = s.d := rfl
@[simp] theorem sync_a : (s.sync).a = s.a := rfl
@[simp] theorem sync_pc : (s.sync).pc = s.pc := rfl
@[simp] theorem sync_sr : (s.sync).sr = s.sr := rfl
@[simp] theorem sync_vbr : (s.sync).vbr = s.vbr := rfl
@[simp] theorem sync_ctrl : (s.sync).ctrl = s.ctrl := rfl
@[simp] theorem sync_mem : (s.sync).mem = s.mem := rfl
@[simp] theorem sync_run : (s.sync).run = s.run := rfl
@[simp] theorem sync_tracePending : (s.sync).tracePending = s.tracePending := rfl
@[simp] theorem sync_irqInhibit : (s.sync).irqInhibit = s.irqInhibit := rfl
@[simp] theorem sync_prevIrqLevel : (s.sync).prevIrqLevel = s.prevIrqLevel := rfl
@[simp] theorem sync_nmiLatched : (s.sync).nmiLatched = s.nmiLatched := rfl
@[simp] theorem sync_debugIrqPending : (s.sync).debugIrqPending = s.debugIrqPending := rfl
@[simp] theorem sync_writeBuffer : (s.sync).writeBuffer = s.writeBuffer := rfl
@[simp] theorem sync_stale : (s.sync).stale = [] := rfl
@[simp] theorem sync_debugEvents : (s.sync).debugEvents = s.debugEvents := rfl
@[simp] theorem sync_memoryMap : (s.sync).memoryMap = s.memoryMap := rfl
@[simp] theorem sync_cfg : (s.sync).cfg = s.cfg := rfl
@[simp] theorem sync_env : (s.sync).env = s.env := rfl
@[simp] theorem sync_draws : (s.sync).draws = s.draws := rfl

/-! ## `State.drawn` -/

@[simp] theorem drawn_d : (s.drawn).d = s.d := rfl
@[simp] theorem drawn_a : (s.drawn).a = s.a := rfl
@[simp] theorem drawn_pc : (s.drawn).pc = s.pc := rfl
@[simp] theorem drawn_sr : (s.drawn).sr = s.sr := rfl
@[simp] theorem drawn_vbr : (s.drawn).vbr = s.vbr := rfl
@[simp] theorem drawn_ctrl : (s.drawn).ctrl = s.ctrl := rfl
@[simp] theorem drawn_mem : (s.drawn).mem = s.mem := rfl
@[simp] theorem drawn_run : (s.drawn).run = s.run := rfl
@[simp] theorem drawn_tracePending : (s.drawn).tracePending = s.tracePending := rfl
@[simp] theorem drawn_irqInhibit : (s.drawn).irqInhibit = s.irqInhibit := rfl
@[simp] theorem drawn_prevIrqLevel : (s.drawn).prevIrqLevel = s.prevIrqLevel := rfl
@[simp] theorem drawn_nmiLatched : (s.drawn).nmiLatched = s.nmiLatched := rfl
@[simp] theorem drawn_debugIrqPending : (s.drawn).debugIrqPending = s.debugIrqPending := rfl
@[simp] theorem drawn_writeBuffer : (s.drawn).writeBuffer = s.writeBuffer := rfl
@[simp] theorem drawn_stale : (s.drawn).stale = s.stale := rfl
@[simp] theorem drawn_debugEvents : (s.drawn).debugEvents = s.debugEvents := rfl
@[simp] theorem drawn_memoryMap : (s.drawn).memoryMap = s.memoryMap := rfl
@[simp] theorem drawn_cfg : (s.drawn).cfg = s.cfg := rfl
@[simp] theorem drawn_env : (s.drawn).env = s.env := rfl
@[simp] theorem drawn_draws : (s.drawn).draws = s.draws + 1 := rfl

/-! ## `State.setReg` -/

@[simp] theorem setReg_pc (r : Reg) (v : Long) : (s.setReg r v).pc = s.pc := by
  cases r <;> rfl
@[simp] theorem setReg_sr (r : Reg) (v : Long) : (s.setReg r v).sr = s.sr := by
  cases r <;> rfl
@[simp] theorem setReg_vbr (r : Reg) (v : Long) : (s.setReg r v).vbr = s.vbr := by
  cases r <;> rfl
@[simp] theorem setReg_ctrl (r : Reg) (v : Long) : (s.setReg r v).ctrl = s.ctrl := by
  cases r <;> rfl
@[simp] theorem setReg_mem (r : Reg) (v : Long) : (s.setReg r v).mem = s.mem := by
  cases r <;> rfl
@[simp] theorem setReg_run (r : Reg) (v : Long) : (s.setReg r v).run = s.run := by
  cases r <;> rfl
@[simp] theorem setReg_tracePending (r : Reg) (v : Long) : (s.setReg r v).tracePending = s.tracePending := by
  cases r <;> rfl
@[simp] theorem setReg_irqInhibit (r : Reg) (v : Long) : (s.setReg r v).irqInhibit = s.irqInhibit := by
  cases r <;> rfl
@[simp] theorem setReg_prevIrqLevel (r : Reg) (v : Long) : (s.setReg r v).prevIrqLevel = s.prevIrqLevel := by
  cases r <;> rfl
@[simp] theorem setReg_nmiLatched (r : Reg) (v : Long) : (s.setReg r v).nmiLatched = s.nmiLatched := by
  cases r <;> rfl
@[simp] theorem setReg_debugIrqPending (r : Reg) (v : Long) : (s.setReg r v).debugIrqPending = s.debugIrqPending := by
  cases r <;> rfl
@[simp] theorem setReg_writeBuffer (r : Reg) (v : Long) : (s.setReg r v).writeBuffer = s.writeBuffer := by
  cases r <;> rfl
@[simp] theorem setReg_stale (r : Reg) (v : Long) : (s.setReg r v).stale = s.stale := by
  cases r <;> rfl
@[simp] theorem setReg_debugEvents (r : Reg) (v : Long) : (s.setReg r v).debugEvents = s.debugEvents := by
  cases r <;> rfl
@[simp] theorem setReg_memoryMap (r : Reg) (v : Long) : (s.setReg r v).memoryMap = s.memoryMap := by
  cases r <;> rfl
@[simp] theorem setReg_cfg (r : Reg) (v : Long) : (s.setReg r v).cfg = s.cfg := by
  cases r <;> rfl
@[simp] theorem setReg_env (r : Reg) (v : Long) : (s.setReg r v).env = s.env := by
  cases r <;> rfl
@[simp] theorem setReg_draws (r : Reg) (v : Long) : (s.setReg r v).draws = s.draws := by
  cases r <;> rfl

/-! ## Reading a register after an update -/

theorem vector_get_set {n : Nat} (v : Vector Long n) (i j : Fin n) (x : Long) :
    (v.set i x).get j = if i = j then x else v.get j := by
  simp only [Vector.get_eq_getElem, Vector.getElem_set, Fin.ext_iff]

@[simp] theorem setD_dreg (n m : RegNum) (v : Long) :
    (s.setD n v).dreg m = if n = m then v else s.dreg m := vector_get_set _ _ _ _

@[simp] theorem setA_areg (n m : RegNum) (v : Long) :
    (s.setA n v).areg m = if n = m then v else s.areg m := vector_get_set _ _ _ _

@[simp] theorem setA_dreg (n m : RegNum) (v : Long) : (s.setA n v).dreg m = s.dreg m := rfl

@[simp] theorem setD_areg (n m : RegNum) (v : Long) : (s.setD n v).areg m = s.areg m := rfl

@[simp] theorem setSp_sp (v : Long) : (s.setSp v).sp = v := by
  simp [State.setSp, State.sp]

@[simp] theorem setSp_dreg (n : RegNum) (v : Long) : (s.setSp v).dreg n = s.dreg n := rfl

@[simp] theorem setSr_dreg (r : SR) (n : RegNum) : (s.setSr r).dreg n = s.dreg n := rfl

@[simp] theorem setSr_areg (r : SR) (n : RegNum) : (s.setSr r).areg n = s.areg n := rfl

@[simp] theorem setPc_dreg (t : Long) (n : RegNum) : (s.setPc t).dreg n = s.dreg n := rfl

@[simp] theorem setPc_areg (t : Long) (n : RegNum) : (s.setPc t).areg n = s.areg n := rfl

/-- The reset sequence over the memory of `State.reset` gives `State.reset` (log 3). -/
theorem takeReset_reset : takeReset 0 State.reset = State.reset := by decide +kernel

end Sys2Proof.Machine
end

