-- ==== Sys2Proof/Laws/Ops.lean ====
section
/-! SUPPORT. What the shared operations can do, said once each. -/

namespace Sys2Proof.Machine

/-! ## Parts of instructions -/

@[simp] theorem andThen_ok {α β : Type} (v : α) (s : State) (k : α → State → Eff β) :
    (Eff.ok v s).andThen k = k v s := rfl

@[simp] theorem andThen_raise {α β : Type} (x : Exc) (s : State) (k : α → State → Eff β) :
    (Eff.raise x s : Eff α).andThen k = .raise x s := rfl

@[simp] theorem andThen_refuse {α β : Type} (r : Refusal) (k : α → State → Eff β) :
    (Eff.refuse r : Eff α).andThen k = .refuse r := rfl

@[simp] theorem finish_ok (s : State) : finish (.ok () s) = .next s := rfl

@[simp] theorem finish_raise (x : Exc) (s : State) :
    finish (.raise x s) = .next (raiseExc x s) := rfl

@[simp] theorem finish_refuse (r : Refusal) : finish (.refuse r) = .refused r := rfl

/-- If two parts in sequence answer, both did. -/
theorem andThen_eq_ok {α β : Type} {e : Eff α} {k : α → State → Eff β} {v : β} {t : State}
    (h : e.andThen k = .ok v t) : ∃ a s, e = .ok a s ∧ k a s = .ok v t := by
  cases e with
  | ok a s => exact ⟨a, s, rfl, h⟩
  | raise x s => simp at h
  | refuse r => simp at h

/-! ## Alignment and answers -/

theorem bit0_eq (a : Long) : a.getLsbD 0 = decide (a.toNat % 2 = 1) := by
  rw [BitVec.getLsbD, Nat.testBit_eq_decide_div_mod_eq, decide_eq_decide]; simp

theorem bit1_eq (a : Long) : a.getLsbD 1 = decide (a.toNat / 2 % 2 = 1) := by
  rw [BitVec.getLsbD, Nat.testBit_eq_decide_div_mod_eq, decide_eq_decide]

/-- The alignment check is the remainder by the size. -/
theorem misaligned_eq (a : Long) (sz : Size) : misaligned a sz = decide (a.toNat % sz.bytes ≠ 0) := by
  cases sz
  · simp [misaligned, Size.bytes, Nat.mod_one]
  · rw [misaligned, bit0_eq, decide_eq_decide, Size.bytes]; omega
  · rw [misaligned, bit0_eq, bit1_eq, ← Bool.decide_or, decide_eq_decide, Size.bytes]; omega

theorem misaligned_check (a : Long) (sz : Size) (s : State) :
    (misaligned a sz && !s.cfg.hasMisalign) = !aligned a sz s := by
  rw [misaligned_eq]
  by_cases h : a.toNat % sz.bytes = 0 <;> simp [aligned, h]

theorem even_eq (t : Long) : even t = !t.getLsbD 0 := by
  rw [bit0_eq, even, Bool.eq_iff_iff]
  rcases Nat.mod_two_eq_zero_or_one t.toNat with h | h <;> simp [h]

/-- The cycles of an operand read exactly its bytes. -/
theorem busCycles_canRead (a : Long) (sz : Size) (v : Long) (s : State) :
    ((busCycles a sz v).all fun c => s.canRead c.addr c.size) =
      (byteAddrs a sz).all fun b => (answersAt s.memoryMap s.sr.s b).read := by
  cases sz
  · simp [busCycles, byteAddrs, State.canRead, State.answers]
  · simp only [busCycles]
    split <;> simp [byteAddrs, State.canRead, State.answers]
  · simp only [busCycles]
    split
    · simp [byteAddrs, State.canRead, State.answers, Bool.and_assoc]
    · split <;> simp [byteAddrs, State.canRead, State.answers, Bool.and_assoc]

/-- Everything a read can do (20_memory R61). -/
theorem readMem_eq (a : Long) (sz : Size) (s : State) :
    readMem a sz s =
      if aligned a sz s then
        if readable a sz s then .ok (s.mem.read a sz) s else .raise .accessRead s
      else .raise (.addressError .misalignedRead) s := by
  rw [readMem, misaligned_check, busCycles_canRead]
  by_cases h : aligned a sz s <;> simp [readable, h]

theorem readMem_ok (a : Long) (sz : Size) (s : State) (h : readable a sz s = true) :
    readMem a sz s = .ok (s.mem.read a sz) s := by
  have ha : aligned a sz s = true := by
    simp only [readable, Bool.and_eq_true] at h
    exact h.1
  simp [readMem_eq, ha, h]

theorem readMem_error (a : Long) (sz : Size) (s : State) (h : readable a sz s = false) :
    readMem a sz s = .raise (readFault a sz s) s := by
  rw [readMem_eq, readFault]
  by_cases ha : aligned a sz s <;> simp [ha, h]

/-! ## Writes -/

theorem worstAnswer_ok (l : List WriteAnswer) :
    (worstAnswer l == .ok) = l.all fun w => w == .ok := by
  induction l with
  | nil => rfl
  | cons w l ih => cases w <;> simp [worstAnswer, ih]

/-- A write cycle that every byte of completes. -/
theorem writeCycle_ok (s : State) (c : BusCycle) (h : s.writeAnswer c.addr c.size = .ok) :
    writeCycle s c = { s with
      mem := s.mem.write c.addr c.size c.value
      stale := remember (replacedBy s.mem c) s.stale } := by
  simp [writeCycle, h]

/-- A write cycle changes memory and the record of stores, or adds a pending error. -/
theorem writeCycle_cases (s : State) (c : BusCycle) :
    (s.writeAnswer c.addr c.size = .ok ∧
      ∃ st, writeCycle s c = { s with mem := s.mem.write c.addr c.size c.value, stale := st }) ∨
    (s.writeAnswer c.addr c.size ≠ .ok ∧
      writeCycle s c = { s with writeBuffer := s.writeBuffer ++
        [⟨c.addr, c.size, c.value, writeErrorFs (s.writeAnswer c.addr c.size)⟩] }) := by
  by_cases h : s.writeAnswer c.addr c.size = .ok
  · exact .inl ⟨h, _, writeCycle_ok s c h⟩
  · refine .inr ⟨h, ?_⟩
    unfold writeCycle
    split <;> simp_all

/-- Whatever its cycles answer, a write changes memory, the record of stores and the pending
errors alone, and keeps memory canonical. -/
theorem writeCycles_frame (cs : List BusCycle) (s : State) :
    ∃ m st wb, cs.foldl writeCycle s = { s with mem := m, stale := st, writeBuffer := wb } ∧
      (s.mem.wf = true → Memory.wf m = true) := by
  induction cs generalizing s with
  | nil => exact ⟨s.mem, s.stale, s.writeBuffer, rfl, id⟩
  | cons c cs ih =>
    rw [List.foldl_cons]
    obtain ⟨-, st, h⟩ | ⟨-, h⟩ := writeCycle_cases s c <;> rw [h]
    · obtain ⟨m, st', wb, h', hw⟩ := ih { s with
        mem := s.mem.write c.addr c.size c.value, stale := st }
      exact ⟨m, st', wb, h', fun hs => hw (write_keeps_wf _ _ _ _ hs)⟩
    · obtain ⟨m, st', wb, h', hw⟩ := ih { s with writeBuffer := s.writeBuffer ++
        [⟨c.addr, c.size, c.value, writeErrorFs (s.writeAnswer c.addr c.size)⟩] }
      exact ⟨m, st', wb, h', hw⟩

/-- Everything a write can do (20_memory R62, R67). -/
theorem writeMem_cases (a : Long) (sz : Size) (v : Long) (s : State) :
    (aligned a sz s = false ∧
      writeMem a sz v s = .raise (.addressError .misalignedWrite) s) ∨
    (aligned a sz s = true ∧ ∃ m st wb,
      writeMem a sz v s = .ok () { s with mem := m, stale := st, writeBuffer := wb } ∧
      (s.mem.wf = true → Memory.wf m = true)) := by
  rw [writeMem, misaligned_check]
  by_cases h : aligned a sz s
  · obtain ⟨m, st, wb, h', hw⟩ := writeCycles_frame (busCycles a sz v) s
    exact .inr ⟨h, m, st, wb, by simp [h, h'], hw⟩
  · exact .inl ⟨by simpa using h, by simp [h]⟩

/-! ## Exception frames -/

theorem writeAnswer_ok (s : State) (a : Long) (sz : Size) :
    (s.writeAnswer a sz == .ok) =
      (byteAddrs a sz).all fun b => (answersAt s.memoryMap s.sr.s b).write == .ok := by
  simp [State.writeAnswer, worstAnswer_ok, List.all_map, State.answers, Function.comp_def]

theorem and_not_three (n : Nat) (h : n < 2 ^ 32) : n &&& 0xFFFFFFFC = n / 4 * 4 := by
  have hc : (0xFFFFFFFC : Nat) = (2 ^ 30 - 1) <<< 2 := by decide
  have hn : n / 4 * 4 = n >>> 2 <<< 2 := by
    rw [Nat.shiftLeft_eq, Nat.shiftRight_eq_div_pow]
  rw [hc, hn]
  apply Nat.eq_of_testBit_eq
  intro i
  rw [Nat.testBit_and, Nat.testBit_shiftLeft, Nat.testBit_shiftLeft, Nat.testBit_two_pow_sub_one,
    Nat.testBit_shiftRight]
  by_cases hi : 2 ≤ i
  · by_cases hj : i < 32
    · simp [hi, show i - 2 < 30 by omega, show 2 + (i - 2) = i by omega]
    · have : n.testBit i = false := Nat.testBit_lt_two_pow
        (lt_of_lt_of_le h (Nat.pow_le_pow_right (by omega) (by omega)))
      simp [hi, this, show 2 + (i - 2) = i by omega]
  · simp [hi]

/-- The aligned frame address of the model is that of Table 7-2. -/
theorem frameSp_eq (s : State) : frameSp s.sp = frameBase s := by
  unfold frameSp frameBase
  congr 1
  apply BitVec.eq_of_toNat_eq
  have h := s.sp.isLt
  have e : s.sp.toNat &&& BitVec.toNat (0xFFFFFFFC : Long) = s.sp.toNat / 4 * 4 :=
    and_not_three s.sp.toNat h
  rw [BitVec.toNat_and, BitVec.toNat_sub, BitVec.toNat_ofNat, e]
  omega

/-- The vector address as a sum (60_exceptions R401). -/
theorem vectorAddr_eq (s : State) (vector : Byte) : s.vectorAddr vector = vectorSlot vector s := by
  apply BitVec.eq_of_toNat_eq
  have h := s.vbr.isLt
  have h' := vector.isLt
  have e : s.vbrWord.toNat = s.vbr.toNat * 2 ^ 20 := by
    rw [State.vbrWord, BitVec.toNat_append]
    simp [Nat.shiftLeft_eq]
  simp [State.vectorAddr, vectorSlot, e]

@[simp] theorem haltFault_run (s : State) : (haltFault s).run = .haltedFault := rfl

@[simp] theorem haltFault_cfg (s : State) : (haltFault s).cfg = s.cfg := rfl

@[simp] theorem haltFault_env (s : State) : (haltFault s).env = s.env := rfl

theorem haltFault_wf (s : State) : (haltFault s).mem.wf = true := ofCells_wf _

/-- Everything taking an exception can do (60_exceptions R410, R455): the frame written, the
handler entered and nothing else changed, or the fault-on-fault halt. -/
theorem takeException_cases (vector : Byte) (spc : Long) (fs : BitVec 4)
    (level : Option (BitVec 3)) (s : State) :
    (∃ m, (s.mem.wf = true → Memory.wf m = true) ∧
      even (m.read (vectorSlot vector s) .long) = true ∧
      takeException vector spc fs level s = { s with
        sr := s.sr.enter s.cfg.irqClearsM level
        mem := m
        a := s.a.set 7 (frameBase s)
        pc := m.read (vectorSlot vector s) .long
        tracePending := false
        irqInhibit := true
        stale := [] }) ∨
    takeException vector spc fs level s =
      haltFault (s.setSr (s.sr.enter s.cfg.irqClearsM level)) := by
  simp only [takeException, vectorAddr_eq, frameSp_eq]
  split
  · next h =>
    simp only [Bool.and_eq_true] at h
    exact .inl ⟨_, fun hs => write_keeps_wf _ _ _ _ (write_keeps_wf _ _ _ _ hs),
      by rw [even_eq]; exact h.1.2, rfl⟩
  · exact .inr rfl

/-- Taking an exception leaves the machine running as it was, or halted. -/
theorem takeException_run (vector : Byte) (spc : Long) (fs : BitVec 4)
    (level : Option (BitVec 3)) (s : State) :
    (takeException vector spc fs level s).run = s.run ∨
      (takeException vector spc fs level s).run = .haltedFault := by
  obtain ⟨m, -, -, h⟩ | h := takeException_cases vector spc fs level s <;> rw [h]
  · exact .inl rfl
  · exact .inr rfl

end Sys2Proof.Machine
end

