-- ==== Sys2Proof/Laws/Operands.lean ====
section
/-! SUPPORT. What resolving an operand can do. -/

namespace Sys2Proof.Machine

theorem shift_eq_mul (x : Long) (k : BitVec 2) :
    x <<< k.toNat = x * BitVec.ofNat 32 (2 ^ k.toNat) := by
  apply BitVec.eq_of_toNat_eq
  have := k.isLt
  simp [Nat.shiftLeft_eq]

theorem indexOffset_eq (w : IndexWord) (s : State) (b : Long) :
    b + indexOffset w s =
      b + w.d8.signExtend 32 + s.reg w.xn * BitVec.ofNat 32 (2 ^ w.scale.toNat) := by
  rw [indexOffset, shift_eq_mul, BitVec.add_assoc]

theorem append_toNat {m n : Nat} (x : BitVec m) (y : BitVec n) :
    (x ++ y).toNat = x.toNat * 2 ^ n + y.toNat := by
  rw [BitVec.toNat_append, ← Nat.shiftLeft_add_eq_or_of_lt y.isLt, Nat.shiftLeft_eq]

/-- The low part of a register replaced, as bits and as a remainder. -/
theorem mergeLow_eq (old v : Long) (sz : Size) : mergeLow old v sz = replaceLow old v sz := by
  apply BitVec.eq_of_toNat_eq
  have h := old.isLt
  have h' := v.isLt
  cases sz
  · refine (append_toNat _ _).trans ?_
    simp [replaceLow, Size.bytes, BitVec.extractLsb'_toNat, Nat.shiftRight_eq_div_pow]
    omega
  · refine (append_toNat _ _).trans ?_
    simp [replaceLow, Size.bytes, BitVec.extractLsb'_toNat, Nat.shiftRight_eq_div_pow]
    omega
  · simp [mergeLow, replaceLow, Size.bytes]
    omega

/-- An invalid index word raises the address error with nothing changed (30_encoding R115). -/
theorem resolve_invalid (ea : Ea) (sz : Size) (s : State) (h : eaIndexValid ea = false) :
    resolve ea sz s = .raise (.addressError .invalidIndex) s := by
  simp [resolve, checkIndex, h]

/-- A memory operand: its address, and the register update. -/
theorem resolve_mem (ea : Ea) (sz : Size) (s : State) (a : Long) (h : eaIndexValid ea = true)
    (ha : eaAddr ea sz s = some a) : resolve ea sz s = .ok (.mem a) (eaAfter ea sz s) := by
  cases ea <;> simp only [eaAddr, Option.some.injEq, reduceCtorEq] at ha <;> subst ha <;>
    simp [resolve, checkIndex, h, eaAfter, autoStep, indexOffset_eq, State.extAddr, State.setA]

/-- A register or an immediate: no effect. -/
theorem resolve_register (ea : Ea) (sz : Size) (s : State) (h : eaAddr ea sz s = none) :
    ∃ p, resolve ea sz s = .ok p s ∧
      match ea with
      | .dn n => p = .dreg n
      | .an n => p = .areg n
      | .imm v => p = .imm v
      | _ => False := by
  cases ea <;> simp only [eaAddr, reduceCtorEq] at h <;>
    simp [resolve, checkIndex, eaIndexValid]

/-- The update of an address register touches nothing else. -/
theorem eaAfter_eq (ea : Ea) (sz : Size) (s : State) :
    ∃ a, eaAfter ea sz s = { s with a := a } := by
  cases ea <;> exact ⟨_, rfl⟩

@[simp] theorem eaAfter_d (ea : Ea) (sz : Size) (s : State) : (eaAfter ea sz s).d = s.d := by
  cases ea <;> rfl

@[simp] theorem eaAfter_pc (ea : Ea) (sz : Size) (s : State) : (eaAfter ea sz s).pc = s.pc := by
  cases ea <;> rfl

@[simp] theorem eaAfter_sr (ea : Ea) (sz : Size) (s : State) : (eaAfter ea sz s).sr = s.sr := by
  cases ea <;> rfl

@[simp] theorem eaAfter_mem (ea : Ea) (sz : Size) (s : State) : (eaAfter ea sz s).mem = s.mem := by
  cases ea <;> rfl

@[simp] theorem eaAfter_cfg (ea : Ea) (sz : Size) (s : State) : (eaAfter ea sz s).cfg = s.cfg := by
  cases ea <;> rfl

@[simp] theorem eaAfter_memoryMap (ea : Ea) (sz : Size) (s : State) :
    (eaAfter ea sz s).memoryMap = s.memoryMap := by
  cases ea <;> rfl

@[simp] theorem eaAfter_dreg (ea : Ea) (sz : Size) (s : State) (n : RegNum) :
    (eaAfter ea sz s).dreg n = s.dreg n := by
  cases ea <;> rfl

@[simp] theorem eaAfter_aligned (ea : Ea) (sz sz' : Size) (s : State) (a : Long) :
    aligned a sz' (eaAfter ea sz s) = aligned a sz' s := by
  simp [aligned]

@[simp] theorem eaAfter_readable (ea : Ea) (sz sz' : Size) (s : State) (a : Long) :
    readable a sz' (eaAfter ea sz s) = readable a sz' s := by
  simp [readable]

@[simp] theorem eaAfter_writable (ea : Ea) (sz sz' : Size) (s : State) (a : Long) :
    writable a sz' (eaAfter ea sz s) = writable a sz' s := by
  simp [writable]

end Sys2Proof.Machine
end

