-- ==== Sys2Proof/Laws/PerInstr.lean ====
section
/-! SUPPORT. Per instruction: the encoding has the length that 30_encoding R103 gives it, and a
well-formed instruction is at most three words long. -/

namespace Sys2Proof.Laws.EncodeLength

open Sys2Proof

/-- The length of the encoding (30_encoding R103). -/
def Statement (i : Instr) : Prop :=
  (encode i).length = 1 + i.extWords ∧ ∀ cfg : Config, i.wf cfg = true → i.extWords ≤ 2

theorem ea_length (sz : Size) (ea : Ea) : (ea.encode sz).length = ea.words sz := by
  cases ea <;> cases sz <;> rfl

theorem disp_length (d : Disp) : d.encode.length = d.words := by cases d <;> rfl

theorem trapf_length (o : TrapfOperand) : o.encode.length = o.count := by cases o <;> rfl

theorem ea_words_le (sz : Size) (ea : Ea) : ea.words sz ≤ 2 := by
  cases ea <;> cases sz <;> simp [Ea.words]

theorem disp_words_le (d : Disp) : d.words ≤ 2 := by cases d <;> simp [Disp.words]

theorem trapf_count_le (o : TrapfOperand) : o.count ≤ 2 := by cases o <;> simp [TrapfOperand.count]

theorem and_split {a b : Bool} (h : (a && b) = true) : a = true ∧ b = true := by
  simpa using h

theorem plain_statement (k : Nat) (i : Instr) (h : i.ext.length = k) (h' : i.extWords = k)
    (hk : k ≤ 2) : Statement i :=
  ⟨by rw [encode, List.length_cons, h, h', Nat.add_comm], fun _ _ => h'.trans_le hk⟩

theorem ea_statement (sz : Size) (ea : Ea) (i : Instr) (h : i.ext = ea.encode sz)
    (h' : i.extWords = ea.words sz) : Statement i :=
  plain_statement _ i (h ▸ ea_length sz ea) h' (ea_words_le sz ea)

theorem disp_statement (d : Disp) (i : Instr) (h : i.ext = d.encode)
    (h' : i.extWords = d.words) : Statement i :=
  plain_statement _ i (h ▸ disp_length d) h' (disp_words_le d)

theorem trapf_statement (o : TrapfOperand) (i : Instr) (h : i.ext = o.encode)
    (h' : i.extWords = o.count) : Statement i :=
  plain_statement _ i (h ▸ trapf_length o) h' (trapf_count_le o)

theorem wordEa_statement (sz : Size) (ea : Ea) (i : Instr) (w : Word)
    (h : i.ext = w :: ea.encode sz) (h' : i.extWords = 1 + ea.words sz)
    (hw : ∀ cfg : Config, i.wf cfg = true → ea.words sz ≤ 1) : Statement i := by
  refine ⟨by rw [encode, List.length_cons, h, h', List.length_cons, ea_length]; omega, ?_⟩
  intro cfg hi
  have := hw cfg hi
  omega

theorem short_words_le (sz : Size) (ea : Ea) (h : ea.isShort = true) : ea.words sz ≤ 1 := by
  cases ea <;> cases sz <;> simp_all [Ea.isShort, Ea.words]

theorem indOrDisp_words_le (sz : Size) (ea : Ea) (h : ea.isIndOrDisp = true) : ea.words sz ≤ 1 := by
  cases ea <;> cases sz <;> simp_all [Ea.isIndOrDisp, Ea.words]

theorem move_words_le (sz : Size) (src dst : Ea) (h : moveCombination src dst = true)
    (hd : dst.isDataAlterable = true) : src.words sz + dst.words sz ≤ 2 := by
  cases src <;> cases dst <;> cases sz <;>
    simp_all [moveCombination, Ea.words, Ea.isDataAlterable, Ea.isData, Ea.isAlterable]

theorem move_statement (sz : Size) (src dst : Ea) (i : Instr)
    (h : i.ext = src.encode sz ++ dst.encode sz) (h' : i.extWords = src.words sz + dst.words sz)
    (hw : ∀ cfg : Config, i.wf cfg = true →
      moveCombination src dst = true ∧ dst.isDataAlterable = true) : Statement i := by
  refine ⟨by rw [encode, List.length_cons, h, h', List.length_append, ea_length, ea_length]; omega,
    fun cfg hi => ?_⟩
  rw [h']
  exact move_words_le sz src dst (hw cfg hi).1 (hw cfg hi).2

theorem ori (n : RegNum) (v : Long) : Statement (.ori n v) :=
  plain_statement 2 _ rfl rfl (by decide)

theorem andi (n : RegNum) (v : Long) : Statement (.andi n v) :=
  plain_statement 2 _ rfl rfl (by decide)

theorem subi (n : RegNum) (v : Long) : Statement (.subi n v) :=
  plain_statement 2 _ rfl rfl (by decide)

theorem addi (n : RegNum) (v : Long) : Statement (.addi n v) :=
  plain_statement 2 _ rfl rfl (by decide)

theorem eori (n : RegNum) (v : Long) : Statement (.eori n v) :=
  plain_statement 2 _ rfl rfl (by decide)

theorem cmpi (n : RegNum) (v : Long) : Statement (.cmpi n v) :=
  plain_statement 2 _ rfl rfl (by decide)

theorem btstDyn (r : RegNum) (ea : Ea) : Statement (.btstDyn r ea) :=
  ea_statement .byte ea _ rfl rfl

theorem btstImm (b : Byte) (ea : Ea) : Statement (.btstImm b ea) :=
  wordEa_statement .byte ea _ _ rfl rfl fun _ h => short_words_le _ ea h

theorem bchgDyn (r : RegNum) (ea : Ea) : Statement (.bchgDyn r ea) :=
  ea_statement .byte ea _ rfl rfl

theorem bchgImm (b : Byte) (ea : Ea) : Statement (.bchgImm b ea) :=
  wordEa_statement .byte ea _ _ rfl rfl fun _ h => short_words_le _ ea h

theorem bclrDyn (r : RegNum) (ea : Ea) : Statement (.bclrDyn r ea) :=
  ea_statement .byte ea _ rfl rfl

theorem bclrImm (b : Byte) (ea : Ea) : Statement (.bclrImm b ea) :=
  wordEa_statement .byte ea _ _ rfl rfl fun _ h => short_words_le _ ea h

theorem bsetDyn (r : RegNum) (ea : Ea) : Statement (.bsetDyn r ea) :=
  ea_statement .byte ea _ rfl rfl

theorem bsetImm (b : Byte) (ea : Ea) : Statement (.bsetImm b ea) :=
  wordEa_statement .byte ea _ _ rfl rfl fun _ h => short_words_le _ ea h

theorem moveB (src : Ea) (dst : Ea) : Statement (.moveB src dst) :=
  move_statement .byte src dst _ rfl rfl fun _ h =>
  ⟨(and_split h).2, (and_split (and_split h).1).2⟩

theorem moveW (src : Ea) (dst : Ea) : Statement (.moveW src dst) :=
  move_statement .word src dst _ rfl rfl fun _ h =>
  ⟨(and_split h).2, (and_split (and_split h).1).2⟩

theorem moveL (src : Ea) (dst : Ea) : Statement (.moveL src dst) :=
  move_statement .long src dst _ rfl rfl fun _ h =>
  ⟨(and_split h).2, (and_split h).1⟩

theorem moveaW (src : Ea) (n : RegNum) : Statement (.moveaW src n) :=
  ea_statement .word src _ rfl rfl

theorem moveaL (src : Ea) (n : RegNum) : Statement (.moveaL src n) :=
  ea_statement .long src _ rfl rfl

theorem negx (n : RegNum) : Statement (.negx n) := plain_statement 0 _ rfl rfl (by decide)

theorem moveFromSr (n : RegNum) : Statement (.moveFromSr n) :=
  plain_statement 0 _ rfl rfl (by decide)

theorem clrB (ea : Ea) : Statement (.clrB ea) := ea_statement .byte ea _ rfl rfl

theorem clrW (ea : Ea) : Statement (.clrW ea) := ea_statement .word ea _ rfl rfl

theorem clrL (ea : Ea) : Statement (.clrL ea) := ea_statement .long ea _ rfl rfl

theorem moveFromCcr (n : RegNum) : Statement (.moveFromCcr n) :=
  plain_statement 0 _ rfl rfl (by decide)

theorem neg (n : RegNum) : Statement (.neg n) := plain_statement 0 _ rfl rfl (by decide)

theorem moveToCcr (ea : Ea) : Statement (.moveToCcr ea) := ea_statement .word ea _ rfl rfl

theorem not (n : RegNum) : Statement (.not n) := plain_statement 0 _ rfl rfl (by decide)

theorem moveToSr (ea : Ea) : Statement (.moveToSr ea) := ea_statement .word ea _ rfl rfl

theorem extW (n : RegNum) : Statement (.extW n) := plain_statement 0 _ rfl rfl (by decide)

theorem extL (n : RegNum) : Statement (.extL n) := plain_statement 0 _ rfl rfl (by decide)

theorem extbL (n : RegNum) : Statement (.extbL n) := plain_statement 0 _ rfl rfl (by decide)

theorem swap (n : RegNum) : Statement (.swap n) := plain_statement 0 _ rfl rfl (by decide)

theorem pea (ea : Ea) : Statement (.pea ea) := ea_statement .long ea _ rfl rfl

theorem movemStore (mask : Word) (ea : Ea) : Statement (.movemStore mask ea) :=
  wordEa_statement .long ea _ _ rfl rfl fun _ h => indOrDisp_words_le _ ea h

theorem movemLoad (mask : Word) (ea : Ea) : Statement (.movemLoad mask ea) :=
  wordEa_statement .long ea _ _ rfl rfl fun _ h => indOrDisp_words_le _ ea h

theorem tstB (ea : Ea) : Statement (.tstB ea) := ea_statement .byte ea _ rfl rfl

theorem tstW (ea : Ea) : Statement (.tstW ea) := ea_statement .word ea _ rfl rfl

theorem tstL (ea : Ea) : Statement (.tstL ea) := ea_statement .long ea _ rfl rfl

theorem halt : Statement (.halt) := plain_statement 0 _ rfl rfl (by decide)

theorem pulse : Statement (.pulse) := plain_statement 0 _ rfl rfl (by decide)

theorem illegal4AFC : Statement (.illegal4AFC) := plain_statement 0 _ rfl rfl (by decide)

theorem muluL (n : RegNum) (ea : Ea) : Statement (.muluL n ea) :=
  wordEa_statement .long ea _ _ rfl rfl fun _ h => short_words_le _ ea h

theorem mulsL (n : RegNum) (ea : Ea) : Statement (.mulsL n ea) :=
  wordEa_statement .long ea _ _ rfl rfl fun _ h => short_words_le _ ea h

theorem trap (v : BitVec 4) : Statement (.trap v) := plain_statement 0 _ rfl rfl (by decide)

theorem link (n : RegNum) (d16 : Word) : Statement (.link n d16) :=
  plain_statement 1 _ rfl rfl (by decide)

theorem unlk (n : RegNum) : Statement (.unlk n) := plain_statement 0 _ rfl rfl (by decide)

theorem nop : Statement (.nop) := plain_statement 0 _ rfl rfl (by decide)

theorem stop (v : Word) : Statement (.stop v) := plain_statement 1 _ rfl rfl (by decide)

theorem rte : Statement (.rte) := plain_statement 0 _ rfl rfl (by decide)

theorem rts : Statement (.rts) := plain_statement 0 _ rfl rfl (by decide)

theorem movec (r : Reg) (rc : BitVec 12) : Statement (.movec r rc) :=
  plain_statement 1 _ rfl rfl (by decide)

theorem jsr (ea : Ea) : Statement (.jsr ea) := ea_statement .long ea _ rfl rfl

theorem jmp (ea : Ea) : Statement (.jmp ea) := ea_statement .long ea _ rfl rfl

theorem lea (ea : Ea) (n : RegNum) : Statement (.lea ea n) := ea_statement .long ea _ rfl rfl

theorem addq (q : BitVec 3) (ea : Ea) : Statement (.addq q ea) := ea_statement .long ea _ rfl rfl

theorem subq (q : BitVec 3) (ea : Ea) : Statement (.subq q ea) := ea_statement .long ea _ rfl rfl

theorem scc (c : Cond) (n : RegNum) : Statement (.scc c n) :=
  plain_statement 0 _ rfl rfl (by decide)

theorem trapf (o : TrapfOperand) : Statement (.trapf o) := trapf_statement o _ rfl rfl

theorem trapfW (o : TrapfOperand) : Statement (.trapfW o) := trapf_statement o _ rfl rfl

theorem trapfL (o : TrapfOperand) : Statement (.trapfL o) := trapf_statement o _ rfl rfl

theorem bra (d : Disp) : Statement (.bra d) := disp_statement d _ rfl rfl

theorem bsr (d : Disp) : Statement (.bsr d) := disp_statement d _ rfl rfl

theorem bhi (d : Disp) : Statement (.bhi d) := disp_statement d _ rfl rfl

theorem bls (d : Disp) : Statement (.bls d) := disp_statement d _ rfl rfl

theorem bcc (d : Disp) : Statement (.bcc d) := disp_statement d _ rfl rfl

theorem bcs (d : Disp) : Statement (.bcs d) := disp_statement d _ rfl rfl

theorem bne (d : Disp) : Statement (.bne d) := disp_statement d _ rfl rfl

theorem beq (d : Disp) : Statement (.beq d) := disp_statement d _ rfl rfl

theorem bvc (d : Disp) : Statement (.bvc d) := disp_statement d _ rfl rfl

theorem bvs (d : Disp) : Statement (.bvs d) := disp_statement d _ rfl rfl

theorem bpl (d : Disp) : Statement (.bpl d) := disp_statement d _ rfl rfl

theorem bmi (d : Disp) : Statement (.bmi d) := disp_statement d _ rfl rfl

theorem bge (d : Disp) : Statement (.bge d) := disp_statement d _ rfl rfl

theorem blt (d : Disp) : Statement (.blt d) := disp_statement d _ rfl rfl

theorem bgt (d : Disp) : Statement (.bgt d) := disp_statement d _ rfl rfl

theorem ble (d : Disp) : Statement (.ble d) := disp_statement d _ rfl rfl

theorem moveq (v : Byte) (n : RegNum) : Statement (.moveq v n) :=
  plain_statement 0 _ rfl rfl (by decide)

theorem orToDn (n : RegNum) (ea : Ea) : Statement (.orToDn n ea) := ea_statement .long ea _ rfl rfl

theorem orToEa (n : RegNum) (ea : Ea) : Statement (.orToEa n ea) := ea_statement .long ea _ rfl rfl

theorem subToDn (n : RegNum) (ea : Ea) : Statement (.subToDn n ea) :=
  ea_statement .long ea _ rfl rfl

theorem subToEa (n : RegNum) (ea : Ea) : Statement (.subToEa n ea) :=
  ea_statement .long ea _ rfl rfl

theorem suba (ea : Ea) (n : RegNum) : Statement (.suba ea n) := ea_statement .long ea _ rfl rfl

theorem subx (src : RegNum) (dst : RegNum) : Statement (.subx src dst) :=
  plain_statement 0 _ rfl rfl (by decide)

theorem cmp (ea : Ea) (n : RegNum) : Statement (.cmp ea n) := ea_statement .long ea _ rfl rfl

theorem cmpa (ea : Ea) (n : RegNum) : Statement (.cmpa ea n) := ea_statement .long ea _ rfl rfl

theorem eor (n : RegNum) (ea : Ea) : Statement (.eor n ea) := ea_statement .long ea _ rfl rfl

theorem andToDn (n : RegNum) (ea : Ea) : Statement (.andToDn n ea) :=
  ea_statement .long ea _ rfl rfl

theorem andToEa (n : RegNum) (ea : Ea) : Statement (.andToEa n ea) :=
  ea_statement .long ea _ rfl rfl

theorem muluW (ea : Ea) (n : RegNum) : Statement (.muluW ea n) := ea_statement .word ea _ rfl rfl

theorem mulsW (ea : Ea) (n : RegNum) : Statement (.mulsW ea n) := ea_statement .word ea _ rfl rfl

theorem addToDn (n : RegNum) (ea : Ea) : Statement (.addToDn n ea) :=
  ea_statement .long ea _ rfl rfl

theorem addToEa (n : RegNum) (ea : Ea) : Statement (.addToEa n ea) :=
  ea_statement .long ea _ rfl rfl

theorem adda (ea : Ea) (n : RegNum) : Statement (.adda ea n) := ea_statement .long ea _ rfl rfl

theorem addx (src : RegNum) (dst : RegNum) : Statement (.addx src dst) :=
  plain_statement 0 _ rfl rfl (by decide)

theorem asrImm (q : BitVec 3) (n : RegNum) : Statement (.asrImm q n) :=
  plain_statement 0 _ rfl rfl (by decide)

theorem asrReg (c : RegNum) (n : RegNum) : Statement (.asrReg c n) :=
  plain_statement 0 _ rfl rfl (by decide)

theorem aslImm (q : BitVec 3) (n : RegNum) : Statement (.aslImm q n) :=
  plain_statement 0 _ rfl rfl (by decide)

theorem aslReg (c : RegNum) (n : RegNum) : Statement (.aslReg c n) :=
  plain_statement 0 _ rfl rfl (by decide)

theorem lsrImm (q : BitVec 3) (n : RegNum) : Statement (.lsrImm q n) :=
  plain_statement 0 _ rfl rfl (by decide)

theorem lsrReg (c : RegNum) (n : RegNum) : Statement (.lsrReg c n) :=
  plain_statement 0 _ rfl rfl (by decide)

theorem lslImm (q : BitVec 3) (n : RegNum) : Statement (.lslImm q n) :=
  plain_statement 0 _ rfl rfl (by decide)

theorem lslReg (c : RegNum) (n : RegNum) : Statement (.lslReg c n) :=
  plain_statement 0 _ rfl rfl (by decide)

theorem wddataB (ea : Ea) : Statement (.wddataB ea) := ea_statement .byte ea _ rfl rfl

theorem wddataW (ea : Ea) : Statement (.wddataW ea) := ea_statement .word ea _ rfl rfl

theorem wddataL (ea : Ea) : Statement (.wddataL ea) := ea_statement .long ea _ rfl rfl

theorem wdebug (ea : Ea) : Statement (.wdebug ea) :=
  wordEa_statement .long ea _ _ rfl rfl fun _ h => indOrDisp_words_le _ ea h

theorem illegal0000 : Statement (.illegal0000) := plain_statement 0 _ rfl rfl (by decide)

theorem lineA (x : BitVec 12) : Statement (.lineA x) := plain_statement 0 _ rfl rfl (by decide)

theorem lineF (x : BitVec 12) : Statement (.lineF x) := plain_statement 0 _ rfl rfl (by decide)

end Sys2Proof.Laws.EncodeLength
end

