-- ==== Sys2Proof/Laws/Selections.lean ====
section
/-! SUPPORT. The registers that MOVEM's mask and MOVEC's code select, in the machine's terms and in
those of the statements, and the canonical form after a MOVEC. -/

namespace Sys2Proof.Machine

/-- MOVEM's registers are those of the mask's bits, from bit 0 up (40_data_movement R207). -/
theorem selected_eq (mask : Word) : selected mask = maskRegs mask := by
  have hregs : allRegs = (List.range 16).map maskReg := by decide
  have hcode : ∀ k, k < 16 → (maskReg k).code = k := by decide
  rw [selected, maskRegs, hregs, List.filter_map]
  congr 1
  apply List.filter_congr
  intro k hk
  rw [Function.comp_apply, hcode k (List.mem_range.1 hk), BitVec.getLsbD,
    Nat.testBit_eq_decide_div_mod_eq]
  rfl

/-- The codes of Table 5-2 (10_state R35). -/
theorem ctrlRegOf_code (rc : BitVec 12) (c : CtrlReg) (h : (rc, c) ∈ ctrlCodes) :
    ctrlRegOf rc = some c ∧ rc ≠ 0x801 := by
  simp only [ctrlCodes, List.mem_cons, List.not_mem_nil, or_false, Prod.mk.injEq] at h
  rcases h with h | h | h | h | h | h | h | h | h | h <;> obtain ⟨rfl, rfl⟩ := h <;> decide

/-- A written control register holds the value. -/
theorem setCtrl_same (c : CtrlReg) (v : Long) (r : ControlRegs) :
    ctrlValue c (setCtrl c v r) = v := by
  cases c <;> rfl

/-- The others keep theirs. -/
theorem setCtrl_other (c c' : CtrlReg) (v : Long) (r : ControlRegs) (h : c' ≠ c) :
    ctrlValue c' (setCtrl c v r) = ctrlValue c' r := by
  cases c <;> cases c' <;> first | rfl | exact absurd rfl h

/-- Whatever the platform answers, memory is canonical after a write of a control register. -/
theorem writeCtrl_wf (c : CtrlReg) (v : Long) (s : State) : (writeCtrl c v s).mem.wf = true :=
  ofCells_wf _

end Sys2Proof.Machine
end

