-- ==== Sys2Proof/Laws/Step.lean ====
section
/-! SUPPORT. What fetching and a step of a running machine can do, said once each. -/

namespace Sys2Proof.Machine

/-- A fetch with no store outstanding sees memory (20_memory R63, R81). -/
theorem fetchWord_eq (a : Long) (s : State) (h : s.stale = []) :
    fetchWord a s =
      if s.canFetch a then .ok (s.mem.byte a.toNat ++ s.mem.byte (a + 1).toNat) s
      else .raise .accessFetch s := by
  simp [fetchWord, freshlyStored, h, wordBefore, byteBefore]

theorem next_word (a : Long) (k : Nat) :
    a + 2 + BitVec.ofNat 32 (2 * k) = a + BitVec.ofNat 32 (2 * (k + 1)) := by
  rw [Nat.mul_add, BitVec.ofNat_add, BitVec.add_assoc, BitVec.add_comm (2 : Long)]
  rfl

/-- The words that can all be fetched are those of memory. -/
theorem fetchWords_ok (n : Nat) (a : Long) (s : State) (h : s.stale = [])
    (hf : ∀ k, k < n → s.canFetch (a + BitVec.ofNat 32 (2 * k)) = true) :
    fetchWords n a s = .ok (wordsAt s.mem a n) s := by
  induction n generalizing a with
  | zero => rfl
  | succ n ih =>
    have h0 := hf 0 (by omega)
    have h1 := ih (a + 2) fun k hk => by rw [next_word]; exact hf (k + 1) (by omega)
    rw [Nat.mul_zero, BitVec.add_zero] at h0
    simp only [fetchWords, fetchWord_eq _ _ h, h0, if_true, andThen_ok, h1, wordsAt]

/-- A word that cannot be fetched is an access error, with nothing changed (20_memory R66). -/
theorem fetchWords_error (n : Nat) (a : Long) (s : State) (h : s.stale = [])
    (hf : ¬ ∀ k, k < n → s.canFetch (a + BitVec.ofNat 32 (2 * k)) = true) :
    fetchWords n a s = .raise .accessFetch s := by
  induction n generalizing a with
  | zero => simp at hf
  | succ n ih =>
    by_cases h0 : s.canFetch a
    · have h1 := ih (a + 2) fun hk => hf fun k hk' => by
        rcases k with _ | k
        · simpa using h0
        · rw [← next_word]; exact hk k (by omega)
      simp only [fetchWords, fetchWord_eq _ _ h, h0, if_true, andThen_ok, h1, andThen_raise]
    · simp [fetchWords, fetchWord_eq, h, h0]

/-- A running machine that is neither reset nor told of a write error runs an instruction. -/
theorem step_running (s : State) (hr : s.run = .running) (hi : s.input.reset = false)
    (hw : s.input.reportWriteError = false ∨ s.writeBuffer = []) :
    step s = afterInstr s.input (runInstr (takeInput s)) := by
  rcases hw with hw | hw <;>
    simp [step, cycle, hi, advanceMachine, takeInput, hr, runOrReport, signalledError, hw]

end Sys2Proof.Machine
end

