-- ==== Sys2Proof/Tests/Slice0.lean ====
section
/-! SUPPORT. The model's own tests: ill-formed terms, decoding, one step each, and a state for
the hypotheses of every statement. Expected results come from spec/95_test_vectors.md and from
the encodings of spec/opcode_table.json. -/

namespace Sys2Proof.Tests

open Sys2Proof Sys2Proof.Machine

/-! ## Helpers -/

/-- The start state of 95_test_vectors section 0, without its vector table. -/
def start : State := { State.reset with
  a := (Vector.replicate 8 0).set 7 0x8000, pc := 0x1000, irqInhibit := false }

/-- A status register. -/
def withSr (w : Word) (s : State) : State := s.setSr (SR.ofWord w)

/-- An operand in memory. -/
def poke (sz : Size) (a v : Long) (s : State) : State := { s with mem := s.mem.write a sz v }

/-- A platform that fixes the fault status of address errors at 0000, as the vectors print it. -/
def fixedFs (s : State) : State := { s with
  cfg := { s.cfg with addressErrorFs := some ⟨0, 0, 0, 0⟩ } }

/-- The words decode to an instruction whose next state passes the check. -/
def gives (ws : List Word) (s : State) (check : State → Bool) : Bool :=
  match decodeWords s.cfg ws with
  | .ok (i, []) =>
    match exec i s with
    | .next t => check t
    | _ => false
  | _ => false

/-- One step gives a state that passes the check. -/
def steps (s : State) (check : State → Bool) : Bool :=
  match step s with
  | .next t => check t
  | _ => false

/-! ## One instruction each (95_test_vectors section 2) -/

/-- MOVE.L (A2),D1, section 2.1 row 1. -/
theorem test_move_l_1 : gives [0x2212]
    (poke .long 0x2000 0x80000000 ((withSr 0x271F start).setA 2 0x2000))
    (fun t => t.pc == 0x1002 && t.sr.toWord == 0x2718 && t.dreg 1 == 0x80000000) = true := by decide

/-- MOVE.B D0,D1, section 2.1 row 2. -/
theorem test_move_b_1 : gives [0x1200]
    (((withSr 0x271B start).setD 0 0x12345600).setD 1 0xAAAAAAAA)
    (fun t => t.pc == 0x1002 && t.sr.toWord == 0x2714 && t.dreg 1 == 0xAAAAAA00) = true := by decide

/-- MOVE.W D0,(A0)+, section 2.1 row 3. -/
theorem test_move_w_1 : gives [0x30C0]
    ((start.setD 0 0x1234FFFF).setA 0 0x2000)
    (fun t => t.pc == 0x1002 && t.sr.toWord == 0x2708 && t.areg 0 == 0x2002 && t.mem.read 0x2000
      .word == 0xFFFF) = true := by decide

/-- MOVE.B D0,-(A7), section 2.1 row 4. -/
theorem test_move_b_2 : gives [0x1F00]
    (start.setD 0 0xAB)
    (fun t => t.pc == 0x1002 && t.sr.toWord == 0x2708 && t.areg 7 == 0x7FFF && t.mem.read 0x7FFF
      .byte == 0xAB) = true := by decide

/-- MOVE.L (8,A1),(4,A2), section 2.1 row 6. -/
theorem test_move_l_2 : gives [0x2569, 0x8, 0x4]
    (poke .long 0x2008 0x0 ((start.setA 1 0x2000).setA 2 0x3000))
    (fun t => t.pc == 0x1006 && t.sr.toWord == 0x2704 && t.mem.read 0x3004 .long == 0x0) = true :=
      by decide

/-- MOVE.W ($10,PC),D0, section 2.1 row 7. -/
theorem test_move_w_2 : gives [0x303A, 0x10]
    (poke .word 0x1012 0x8001 (start.setD 0 0xFFFFFFFF))
    (fun t => t.pc == 0x1004 && t.sr.toWord == 0x2708 && t.dreg 0 == 0xFFFF8001) = true := by decide

/-- MOVE.L ($FFFF8000).W,D0, section 2.1 row 10. -/
theorem test_move_l_3 : gives [0x2038, 0x8000]
    (poke .long 0xFFFF8000 0xCAFEF00D start)
    (fun t => t.pc == 0x1004 && t.sr.toWord == 0x2708 && t.dreg 0 == 0xCAFEF00D) = true := by decide

/-- MOVEA.W #$8000,A0, section 2.1 row 12. -/
theorem test_movea_w_1 : gives [0x307C, 0x8000]
    (withSr 0x271F start)
    (fun t => t.pc == 0x1004 && t.sr.toWord == 0x271F && t.areg 0 == 0xFFFF8000) = true := by decide

/-- MOVEQ #-1,D0, section 2.1 row 14. -/
theorem test_moveq_1 : gives [0x70FF]
    (withSr 0x2710 start)
    (fun t => t.pc == 0x1002 && t.sr.toWord == 0x2718 && t.dreg 0 == 0xFFFFFFFF) = true := by decide

/-- LEA 8(A1),A0, section 2.1 row 17. -/
theorem test_lea_1 : gives [0x41E9, 0x8]
    (start.setA 1 0x2000)
    (fun t => t.pc == 0x1004 && t.sr.toWord == 0x2700 && t.areg 0 == 0x2008) = true := by decide

/-- LEA ($7F,A0,A0.L*2),A1, section 2.1 row 19. -/
theorem test_lea_2 : gives [0x43F0, 0x8A7F]
    (start.setA 0 0x1000)
    (fun t => t.pc == 0x1004 && t.sr.toWord == 0x2700 && t.areg 1 == 0x307F) = true := by decide

/-- PEA (A7), section 2.1 row 21. -/
theorem test_pea_1 : gives [0x4857]
    (start.setA 7 0x3000)
    (fun t => t.pc == 0x1002 && t.sr.toWord == 0x2700 && t.areg 7 == 0x2FFC && t.mem.read 0x2FFC
      .long == 0x3000) = true := by decide

/-- MOVEM.L D0-D1/A0,(A7), section 2.1 row 22. -/
theorem test_movem_l_1 : gives [0x48D7, 0x103]
    ((((start.setD 0 0x11111111).setD 1 0x22222222).setA 0 0x33333333).setA 7 0x3000)
    (fun t => t.pc == 0x1004 && t.sr.toWord == 0x2700 && t.mem.read 0x3000 .long == 0x11111111 &&
      t.mem.read 0x3004 .long == 0x22222222 && t.mem.read 0x3008 .long == 0x33333333) = true := by
      decide

/-- MOVEM.L (8,A0),D2/A0/A7, section 2.1 row 23. -/
theorem test_movem_l_2 : gives [0x4CE8, 0x8104, 0x8]
    (poke .long 0x2010 0x6000 (poke .long 0x200C 0xAAAA0002 (poke .long 0x2008 0xAAAA0001
      (start.setA 0 0x2000))))
    (fun t => t.pc == 0x1006 && t.sr.toWord == 0x2700 && t.dreg 2 == 0xAAAA0001 && t.areg 0 ==
      0xAAAA0002 && t.areg 7 == 0x6000) = true := by decide

/-- LINK A6,#-8, section 2.1 row 24. -/
theorem test_link_1 : gives [0x4E56, 0xFFF8]
    ((start.setA 6 0xAAAA0000).setA 7 0x4000)
    (fun t => t.pc == 0x1004 && t.sr.toWord == 0x2700 && t.areg 6 == 0x3FFC && t.areg 7 == 0x3FF4
      && t.mem.read 0x3FFC .long == 0xAAAA0000) = true := by decide

/-- UNLK A6, section 2.1 row 25. -/
theorem test_unlk_1 : gives [0x4E5E]
    (poke .long 0x3FFC 0xAAAA0000 ((start.setA 6 0x3FFC).setA 7 0x3FF4))
    (fun t => t.pc == 0x1002 && t.sr.toWord == 0x2700 && t.areg 6 == 0xAAAA0000 && t.areg 7 ==
      0x4000) = true := by decide

/-- ADD.L D1,D0, section 2.2 row 1. -/
theorem test_add_l_1 : gives [0xD081]
    ((start.setD 0 0x7FFFFFFF).setD 1 0x1)
    (fun t => t.pc == 0x1002 && t.sr.toWord == 0x270A && t.dreg 0 == 0x80000000) = true := by decide

/-- ADD.L D0,(A1)+, section 2.2 row 4. -/
theorem test_add_l_2 : gives [0xD199]
    (poke .long 0x2000 0xFFFFFFFE ((start.setD 0 0x5).setA 1 0x2000))
    (fun t => t.pc == 0x1002 && t.sr.toWord == 0x2711 && t.areg 1 == 0x2004 && t.mem.read 0x2000
      .long == 0x3) = true := by decide

/-- ADDA.L D1,A0, section 2.2 row 6. -/
theorem test_adda_l_1 : gives [0xD1C1]
    ((start.setA 0 0xFFFFFFFF).setD 1 0x2)
    (fun t => t.pc == 0x1002 && t.sr.toWord == 0x2700 && t.areg 0 == 0x1) = true := by decide

/-- ADDI.L #1,D0, section 2.2 row 7. -/
theorem test_addi_l_1 : gives [0x680, 0x0, 0x1]
    (start.setD 0 0xFFFFFFFF)
    (fun t => t.pc == 0x1006 && t.sr.toWord == 0x2715 && t.dreg 0 == 0x0) = true := by decide

/-- ADDQ.L #8,D0, section 2.2 row 8. -/
theorem test_addq_l_1 : gives [0x5080]
    (start.setD 0 0x7FFFFFF8)
    (fun t => t.pc == 0x1002 && t.sr.toWord == 0x270A && t.dreg 0 == 0x80000000) = true := by decide

/-- ADDQ.L #3,(A0), section 2.2 row 10. -/
theorem test_addq_l_2 : gives [0x5690]
    (poke .long 0x2000 0xFFFFFFFD (start.setA 0 0x2000))
    (fun t => t.pc == 0x1002 && t.sr.toWord == 0x2715 && t.mem.read 0x2000 .long == 0x0) = true :=
      by decide

/-- ADDX.L D1,D0, section 2.2 row 11. -/
theorem test_addx_l_1 : gives [0xD181]
    (((withSr 0x2714 start).setD 0 0xFFFFFFFF).setD 1 0x0)
    (fun t => t.pc == 0x1002 && t.sr.toWord == 0x2715 && t.dreg 0 == 0x0) = true := by decide

/-- ADDX.L D1,D0, section 2.2 row 12. -/
theorem test_addx_l_2 : gives [0xD181]
    ((start.setD 0 0x0).setD 1 0x0)
    (fun t => t.pc == 0x1002 && t.sr.toWord == 0x2700) = true := by decide

/-- CLR.W D0, section 2.2 row 14. -/
theorem test_clr_w_1 : gives [0x4240]
    ((withSr 0x271B start).setD 0 0x12345678)
    (fun t => t.pc == 0x1002 && t.sr.toWord == 0x2714 && t.dreg 0 == 0x12340000) = true := by decide

/-- CLR.L -(A1), section 2.2 row 16. -/
theorem test_clr_l_1 : gives [0x42A1]
    (poke .long 0x2000 0xFFFFFFFF (start.setA 1 0x2004))
    (fun t => t.pc == 0x1002 && t.sr.toWord == 0x2704 && t.areg 1 == 0x2000 && t.mem.read 0x2000
      .long == 0x0) = true := by decide

/-- CMP.L D1,D0, section 2.2 row 17. -/
theorem test_cmp_l_1 : gives [0xB081]
    (((withSr 0x2710 start).setD 0 0x3).setD 1 0x5)
    (fun t => t.pc == 0x1002 && t.sr.toWord == 0x2719) = true := by decide

/-- CMPA.L D1,A0, section 2.2 row 19. -/
theorem test_cmpa_l_1 : gives [0xB1C1]
    ((start.setA 0 0x80000000).setD 1 0x1)
    (fun t => t.pc == 0x1002 && t.sr.toWord == 0x2702) = true := by decide

/-- CMPI.L #$80000000,D0, section 2.2 row 20. -/
theorem test_cmpi_l_1 : gives [0xC80, 0x8000, 0x0]
    (start.setD 0 0x7FFFFFFF)
    (fun t => t.pc == 0x1006 && t.sr.toWord == 0x270B) = true := by decide

/-- EXT.W D0, section 2.2 row 21. -/
theorem test_ext_w_1 : gives [0x4880]
    (start.setD 0 0x12340080)
    (fun t => t.pc == 0x1002 && t.sr.toWord == 0x2708 && t.dreg 0 == 0x1234FF80) = true := by decide

/-- EXT.L D0, section 2.2 row 22. -/
theorem test_ext_l_1 : gives [0x48C0]
    (start.setD 0 0x12348000)
    (fun t => t.pc == 0x1002 && t.sr.toWord == 0x2708 && t.dreg 0 == 0xFFFF8000) = true := by decide

/-- EXTB.L D1, section 2.2 row 23. -/
theorem test_extb_l_1 : gives [0x49C1]
    ((withSr 0x2708 start).setD 1 0xFFFFFF7F)
    (fun t => t.pc == 0x1002 && t.sr.toWord == 0x2700 && t.dreg 1 == 0x7F) = true := by decide

/-- MULS.W D1,D0, section 2.2 row 24. -/
theorem test_muls_w_1 : gives [0xC1C1]
    ((start.setD 0 0x12340002).setD 1 0xFFFF)
    (fun t => t.pc == 0x1002 && t.sr.toWord == 0x2708 && t.dreg 0 == 0xFFFFFFFE) = true := by decide

/-- MULU.W D1,D0, section 2.2 row 26. -/
theorem test_mulu_w_1 : gives [0xC0C1]
    (((withSr 0x2713 start).setD 0 0xFFFF).setD 1 0xFFFF)
    (fun t => t.pc == 0x1002 && t.sr.toWord == 0x2718 && t.dreg 0 == 0xFFFE0001) = true := by decide

/-- MULS.L D1,D2, section 2.2 row 28. -/
theorem test_muls_l_1 : gives [0x4C01, 0x2800]
    ((start.setD 2 0xFFFFFFFF).setD 1 0x7)
    (fun t => t.pc == 0x1004 && t.sr.toWord == 0x2708 && t.dreg 2 == 0xFFFFFFF9) = true := by decide

/-- MULU.L (A0),D3, section 2.2 row 29. -/
theorem test_mulu_l_1 : gives [0x4C10, 0x3000]
    (poke .long 0x2000 0x3 ((start.setD 3 0x80000001).setA 0 0x2000))
    (fun t => t.pc == 0x1004 && t.sr.toWord == 0x2708 && t.dreg 3 == 0x80000003) = true := by decide

/-- NEG.L D0, section 2.2 row 31. -/
theorem test_neg_l_1 : gives [0x4480]
    (start.setD 0 0x80000000)
    (fun t => t.pc == 0x1002 && t.sr.toWord == 0x271B) = true := by decide

/-- NEGX.L D0, section 2.2 row 33. -/
theorem test_negx_l_1 : gives [0x4080]
    ((withSr 0x2714 start).setD 0 0x0)
    (fun t => t.pc == 0x1002 && t.sr.toWord == 0x2719 && t.dreg 0 == 0xFFFFFFFF) = true := by decide

/-- SUB.L D1,D0, section 2.2 row 36. -/
theorem test_sub_l_1 : gives [0x9081]
    ((start.setD 0 0x0).setD 1 0x1)
    (fun t => t.pc == 0x1002 && t.sr.toWord == 0x2719 && t.dreg 0 == 0xFFFFFFFF) = true := by decide

/-- SUBA.L D1,A0, section 2.2 row 38. -/
theorem test_suba_l_1 : gives [0x91C1]
    (((withSr 0x2704 start).setA 0 0x0).setD 1 0x1)
    (fun t => t.pc == 0x1002 && t.sr.toWord == 0x2704 && t.areg 0 == 0xFFFFFFFF) = true := by decide

/-- SUBI.L #1,D0, section 2.2 row 39. -/
theorem test_subi_l_1 : gives [0x480, 0x0, 0x1]
    (start.setD 0 0x0)
    (fun t => t.pc == 0x1006 && t.sr.toWord == 0x2719 && t.dreg 0 == 0xFFFFFFFF) = true := by decide

/-- SUBQ.L #1,D1, section 2.2 row 40. -/
theorem test_subq_l_1 : gives [0x5381]
    (start.setD 1 0x1)
    (fun t => t.pc == 0x1002 && t.sr.toWord == 0x2704 && t.dreg 1 == 0x0) = true := by decide

/-- SUBQ.L #8,A0, section 2.2 row 41. -/
theorem test_subq_l_2 : gives [0x5188]
    (start.setA 0 0x4)
    (fun t => t.pc == 0x1002 && t.sr.toWord == 0x2700 && t.areg 0 == 0xFFFFFFFC) = true := by decide

/-- SUBX.L D1,D0, section 2.2 row 43. -/
theorem test_subx_l_1 : gives [0x9181]
    (((withSr 0x2714 start).setD 0 0x5).setD 1 0x4)
    (fun t => t.pc == 0x1002 && t.sr.toWord == 0x2704 && t.dreg 0 == 0x0) = true := by decide

/-- AND.L D1,D0, section 2.3 row 1. -/
theorem test_and_l_1 : gives [0xC081]
    (((withSr 0x2713 start).setD 0 0x8FFFFFFF).setD 1 0xF0F0F0F0)
    (fun t => t.pc == 0x1002 && t.sr.toWord == 0x2718 && t.dreg 0 == 0x80F0F0F0) = true := by decide

/-- AND.L D0,(A0), section 2.3 row 2. -/
theorem test_and_l_2 : gives [0xC190]
    (poke .long 0x2000 0x12340000 ((start.setD 0 0xFFFF).setA 0 0x2000))
    (fun t => t.pc == 0x1002 && t.sr.toWord == 0x2704 && t.mem.read 0x2000 .long == 0x0) = true :=
      by decide

/-- ANDI.L #$FF,D0, section 2.3 row 3. -/
theorem test_andi_l_1 : gives [0x280, 0x0, 0xFF]
    (start.setD 0 0x12345600)
    (fun t => t.pc == 0x1006 && t.sr.toWord == 0x2704 && t.dreg 0 == 0x0) = true := by decide

/-- EOR.L D0,D1, section 2.3 row 4. -/
theorem test_eor_l_1 : gives [0xB181]
    ((start.setD 0 0xFFFFFFFF).setD 1 0xFFFF)
    (fun t => t.pc == 0x1002 && t.sr.toWord == 0x2708 && t.dreg 1 == 0xFFFF0000) = true := by decide

/-- EORI.L #$FFFFFFFF,D2, section 2.3 row 5. -/
theorem test_eori_l_1 : gives [0xA82, 0xFFFF, 0xFFFF]
    ((withSr 0x271B start).setD 2 0xFFFFFFFF)
    (fun t => t.pc == 0x1006 && t.sr.toWord == 0x2714 && t.dreg 2 == 0x0) = true := by decide

/-- NOT.L D0, section 2.3 row 6. -/
theorem test_not_l_1 : gives [0x4680]
    (start.setD 0 0xF0F0F0F)
    (fun t => t.pc == 0x1002 && t.sr.toWord == 0x2708 && t.dreg 0 == 0xF0F0F0F0) = true := by decide

/-- OR.L (A0)+,D0, section 2.3 row 8. -/
theorem test_or_l_1 : gives [0x8098]
    (poke .long 0x2000 0x0 ((start.setD 0 0x0).setA 0 0x2000))
    (fun t => t.pc == 0x1002 && t.sr.toWord == 0x2704 && t.areg 0 == 0x2004) = true := by decide

/-- ORI.L #$80000000,D0, section 2.3 row 9. -/
theorem test_ori_l_1 : gives [0x80, 0x8000, 0x0]
    (start.setD 0 0x1)
    (fun t => t.pc == 0x1006 && t.sr.toWord == 0x2708 && t.dreg 0 == 0x80000001) = true := by decide

/-- ASL.L #1,D0, section 2.4 row 1. -/
theorem test_asl_l_1 : gives [0xE380]
    (start.setD 0 0xC0000001)
    (fun t => t.pc == 0x1002 && t.sr.toWord == 0x2719 && t.dreg 0 == 0x80000002) = true := by decide

/-- ASL.L #8,D0, section 2.4 row 2. -/
theorem test_asl_l_2 : gives [0xE180]
    (start.setD 0 0xFFFFFF)
    (fun t => t.pc == 0x1002 && t.sr.toWord == 0x2708 && t.dreg 0 == 0xFFFFFF00) = true := by decide

/-- ASR.L D1,D0, section 2.4 row 6. -/
theorem test_asr_l_1 : gives [0xE2A0]
    ((start.setD 0 0x80000000).setD 1 0x28)
    (fun t => t.pc == 0x1002 && t.sr.toWord == 0x2719 && t.dreg 0 == 0xFFFFFFFF) = true := by decide +kernel

/-- ASR.L D1,D0, section 2.4 row 7. -/
theorem test_asr_l_2 : gives [0xE2A0]
    (((withSr 0x2711 start).setD 0 0x7FFFFFFF).setD 1 0x3F)
    (fun t => t.pc == 0x1002 && t.sr.toWord == 0x2704 && t.dreg 0 == 0x0) = true := by decide +kernel

/-- LSL.L #8,D0, section 2.4 row 9. -/
theorem test_lsl_l_1 : gives [0xE188]
    (start.setD 0 0x1FFFFFF)
    (fun t => t.pc == 0x1002 && t.sr.toWord == 0x2719 && t.dreg 0 == 0xFFFFFF00) = true := by decide

/-- LSL.L D1,D0, section 2.4 row 11. -/
theorem test_lsl_l_2 : gives [0xE3A8]
    (((withSr 0x2710 start).setD 0 0x80000001).setD 1 0x40)
    (fun t => t.pc == 0x1002 && t.sr.toWord == 0x2718) = true := by decide

/-- LSR.L #1,D0, section 2.4 row 12. -/
theorem test_lsr_l_1 : gives [0xE288]
    (start.setD 0 0x1)
    (fun t => t.pc == 0x1002 && t.sr.toWord == 0x2715 && t.dreg 0 == 0x0) = true := by decide

/-- LSR.L D1,D0, section 2.4 row 14. -/
theorem test_lsr_l_2 : gives [0xE2A8]
    (((withSr 0x2711 start).setD 0 0xFFFFFFFF).setD 1 0x3F)
    (fun t => t.pc == 0x1002 && t.sr.toWord == 0x2704 && t.dreg 0 == 0x0) = true := by decide

/-- SWAP D0, section 2.4 row 16. -/
theorem test_swap_1 : gives [0x4840]
    (start.setD 0 0x18000)
    (fun t => t.pc == 0x1002 && t.sr.toWord == 0x2708 && t.dreg 0 == 0x80000001) = true := by decide

/-- BTST D1,D0, section 2.5 row 1. -/
theorem test_btst_1 : gives [0x300]
    (((withSr 0x271F start).setD 0 0x2).setD 1 0x21)
    (fun t => t.pc == 0x1002 && t.sr.toWord == 0x271B) = true := by decide

/-- BTST D0,#$80, section 2.5 row 4. -/
theorem test_btst_2 : gives [0x13C, 0x80]
    ((withSr 0x2704 start).setD 0 0xF)
    (fun t => t.pc == 0x1004 && t.sr.toWord == 0x2700) = true := by decide

/-- BCHG #31,D3, section 2.5 row 5. -/
theorem test_bchg_1 : gives [0x843, 0x1F]
    (start.setD 3 0x0)
    (fun t => t.pc == 0x1004 && t.sr.toWord == 0x2704 && t.dreg 3 == 0x80000000) = true := by decide

/-- BCLR D2,(A1), section 2.5 row 7. -/
theorem test_bclr_1 : gives [0x591]
    (poke .byte 0x2003 0x7 ((start.setD 2 0xA).setA 1 0x2003))
    (fun t => t.pc == 0x1002 && t.sr.toWord == 0x2700 && t.mem.read 0x2003 .byte == 0x3) = true :=
      by decide

/-- BCLR #40,D0, section 2.5 row 8. -/
theorem test_bclr_2 : gives [0x880, 0x28]
    ((withSr 0x2704 start).setD 0 0xFFFFFFFF)
    (fun t => t.pc == 0x1004 && t.sr.toWord == 0x2700 && t.dreg 0 == 0xFFFFFEFF) = true := by decide

/-- BSET #7,(A0), section 2.5 row 9. -/
theorem test_bset_1 : gives [0x8D0, 0x7]
    (poke .byte 0x2000 0x0 (start.setA 0 0x2000))
    (fun t => t.pc == 0x1004 && t.sr.toWord == 0x2704 && t.mem.read 0x2000 .byte == 0x80) = true
      := by decide

/-- BSET D1,(A0)+, section 2.5 row 10. -/
theorem test_bset_2 : gives [0x1D8]
    (poke .byte 0x2000 0x1 ((start.setD 1 0x0).setA 0 0x2000))
    (fun t => t.pc == 0x1002 && t.sr.toWord == 0x2700 && t.areg 0 == 0x2001 && t.mem.read 0x2000
      .byte == 0x1) = true := by decide

/-- BNE *+6, section 2.6 row 1. -/
theorem test_bne_1 : gives [0x6604]
    start
    (fun t => t.pc == 0x1006 && t.sr.toWord == 0x2700) = true := by decide

/-- BEQ.W *-2, section 2.6 row 3. -/
theorem test_beq_w_1 : gives [0x6700, 0xFFFC]
    (withSr 0x2704 start)
    (fun t => t.pc == 0xFFE && t.sr.toWord == 0x2704) = true := by decide

/-- BGT *+4, section 2.6 row 5. -/
theorem test_bgt_1 : gives [0x6E02]
    (withSr 0x270A start)
    (fun t => t.pc == 0x1004 && t.sr.toWord == 0x270A) = true := by decide

/-- BCC with D8=$FF, section 2.6 row 9. -/
theorem test_bcc_1 : gives [0x64FF]
    (fixedFs (poke .long 0xC 0x4030 start))
    (fun t => t.pc == 0x4030 && t.sr.toWord == 0x2700 && t.areg 7 == 0x7FF8 && t.mem.read 0x7FFC
      .long == 0x1000 && t.mem.read 0x7FF8 .long == 0x400C2700) = true := by decide

/-- BRA.W *+$102, section 2.6 row 12. -/
theorem test_bra_w_1 : gives [0x6000, 0x100]
    (start.setPc 0x2000)
    (fun t => t.pc == 0x2102 && t.sr.toWord == 0x2700) = true := by decide

/-- BSR.W *+$7FFE, section 2.6 row 14. -/
theorem test_bsr_w_1 : gives [0x6100, 0x7FFC]
    start
    (fun t => t.pc == 0x8FFE && t.sr.toWord == 0x2700 && t.areg 7 == 0x7FFC && t.mem.read 0x7FFC
      .long == 0x1004) = true := by decide

/-- JMP (A4), section 2.6 row 16. -/
theorem test_jmp_1 : gives [0x4ED4]
    (fixedFs (poke .long 0xC 0x4030 (start.setA 4 0x123457)))
    (fun t => t.pc == 0x4030 && t.sr.toWord == 0x2700 && t.areg 7 == 0x7FF8 && t.mem.read 0x7FFC
      .long == 0x1000 && t.mem.read 0x7FF8 .long == 0x400C2700) = true := by decide

/-- JSR ($00012344).L, section 2.6 row 19. -/
theorem test_jsr_1 : gives [0x4EB9, 0x1, 0x2344]
    start
    (fun t => t.pc == 0x12344 && t.sr.toWord == 0x2700 && t.areg 7 == 0x7FFC && t.mem.read 0x7FFC
      .long == 0x1006) = true := by decide

/-- NOP, section 2.6 row 21. -/
theorem test_nop_1 : gives [0x4E71]
    (withSr 0x271F start)
    (fun t => t.pc == 0x1002 && t.sr.toWord == 0x271F) = true := by decide

/-- RTS, section 2.6 row 22. -/
theorem test_rts_1 : gives [0x4E75]
    (poke .long 0x7FFC 0x1002 (start.setA 7 0x7FFC))
    (fun t => t.pc == 0x1002 && t.sr.toWord == 0x2700 && t.areg 7 == 0x8000) = true := by decide

/-- SEQ D0, section 2.6 row 24. -/
theorem test_seq_1 : gives [0x57C0]
    ((withSr 0x2704 start).setD 0 0x12345678)
    (fun t => t.pc == 0x1002 && t.sr.toWord == 0x2704 && t.dreg 0 == 0x123456FF) = true := by decide

/-- SLT D3, section 2.6 row 28. -/
theorem test_slt_1 : gives [0x5DC3]
    ((withSr 0x2708 start).setD 3 0x0)
    (fun t => t.pc == 0x1002 && t.sr.toWord == 0x2708 && t.dreg 3 == 0xFF) = true := by decide

/-- TRAPF, section 2.6 row 29. -/
theorem test_trapf_1 : gives [0x51FA]
    (withSr 0x271F start)
    (fun t => t.pc == 0x1002 && t.sr.toWord == 0x271F) = true := by decide

/-- TRAPF.L #$12345678, section 2.6 row 31. -/
theorem test_trapf_l_1 : gives [0x51FC, 0x1234, 0x5678]
    start
    (fun t => t.pc == 0x1006 && t.sr.toWord == 0x2700) = true := by decide

/-- TST.W D0, section 2.6 row 32. -/
theorem test_tst_w_1 : gives [0x4A40]
    ((withSr 0x2713 start).setD 0 0xFFFF0000)
    (fun t => t.pc == 0x1002 && t.sr.toWord == 0x2714) = true := by decide

/-- TST.L (A0)+, section 2.6 row 33. -/
theorem test_tst_l_1 : gives [0x4A98]
    (poke .long 0x2000 0x80000000 (start.setA 0 0x2000))
    (fun t => t.pc == 0x1002 && t.sr.toWord == 0x2708 && t.areg 0 == 0x2004) = true := by decide

/-- TST.B #$80, section 2.6 row 34. -/
theorem test_tst_b_1 : gives [0x4A3C, 0x80]
    start
    (fun t => t.pc == 0x1004 && t.sr.toWord == 0x2708) = true := by decide

/-- TST.L A0, section 2.6 row 35. -/
theorem test_tst_l_2 : gives [0x4A88]
    (start.setA 0 0x0)
    (fun t => t.pc == 0x1002 && t.sr.toWord == 0x2704) = true := by decide

/-- MOVE SR,D0, section 2.7 row 1. -/
theorem test_move_1 : gives [0x40C0]
    ((withSr 0x2704 start).setD 0 0xFFFFFFFF)
    (fun t => t.pc == 0x1002 && t.sr.toWord == 0x2704 && t.dreg 0 == 0xFFFF2704) = true := by decide

/-- MOVE SR,D0, section 2.7 row 2. -/
theorem test_move_2 : gives [0x40C0]
    (poke .long 0x20 0x4080 ((withSr 0x704 start).setD 0 0xFFFFFFFF))
    (fun t => t.pc == 0x4080 && t.sr.toWord == 0x2704 && t.areg 7 == 0x7FF8 && t.mem.read 0x7FFC
      .long == 0x1000 && t.mem.read 0x7FF8 .long == 0x40200704) = true := by decide

/-- MOVE D1,SR, section 2.7 row 4. -/
theorem test_move_3 : gives [0x46C1]
    (start.setD 1 0xFFFF)
    (fun t => t.pc == 0x1002 && t.sr.toWord == 0xB71F) = true := by decide

/-- MOVE CCR,D2, section 2.7 row 6. -/
theorem test_move_4 : gives [0x42C2]
    ((withSr 0x2715 start).setD 2 0xAAAAAAAA)
    (fun t => t.pc == 0x1002 && t.sr.toWord == 0x2715 && t.dreg 2 == 0xAAAA0015) = true := by decide

/-- MOVE D0,CCR, section 2.7 row 9. -/
theorem test_move_5 : gives [0x44C0]
    ((withSr 0x1B start).setD 0 0x12345604)
    (fun t => t.pc == 0x1002 && t.sr.toWord == 0x4) = true := by decide

/-- MOVEC A0,VBR, section 2.7 row 10. -/
theorem test_movec_1 : gives [0x4E7B, 0x8801]
    (start.setA 0 0x12345678)
    (fun t => t.pc == 0x1004 && t.sr.toWord == 0x2700 && t.vbrWord == 0x12300000) = true := by
      decide

/-- RTE, section 2.7 row 16. -/
theorem test_rte_1 : gives [0x4E73]
    (poke .long 0x7FF8 0x2000 (poke .long 0x7FF4 0x5FFFFFFF (start.setA 7 0x7FF4)))
    (fun t => t.pc == 0x2000 && t.sr.toWord == 0xB71F && t.areg 7 == 0x7FFD) = true := by decide

/-- STOP #$2000, section 2.7 row 21. -/
theorem test_stop_1 : gives [0x4E72, 0x2000]
    (poke .long 0x24 0x4090 (withSr 0xA700 start))
    (fun t => t.pc == 0x4090 && t.sr.toWord == 0x2000 && t.areg 7 == 0x7FF8 && t.mem.read 0x7FFC
      .long == 0x1004 && t.mem.read 0x7FF8 .long == 0x40242000) = true := by decide

/-- STOP #$2000, section 2.7 row 22. -/
theorem test_stop_2 : gives [0x4E72, 0x2000]
    (poke .long 0x20 0x4080 (withSr 0x0 start))
    (fun t => t.pc == 0x4080 && t.sr.toWord == 0x2000 && t.areg 7 == 0x7FF8 && t.mem.read 0x7FFC
      .long == 0x1000 && t.mem.read 0x7FF8 .long == 0x40200000) = true := by decide

/-- PULSE, section 2.7 row 25. -/
theorem test_pulse_1 : gives [0x4ACC]
    (withSr 0x0 start)
    (fun t => t.pc == 0x1002 && t.sr.toWord == 0x0) = true := by decide

/-- WDDATA.B (A0)+, section 2.7 row 27. -/
theorem test_wddata_b_1 : gives [0xFB18]
    (poke .byte 0x2003 0x5A (start.setA 0 0x2003))
    (fun t => t.pc == 0x1002 && t.sr.toWord == 0x2700 && t.areg 0 == 0x2004) = true := by decide

/-- WDDATA.L D0 pattern, section 2.7 row 28. -/
theorem test_wddata_l_1 : gives [0xFB80]
    (poke .long 0x2C 0x40B0 start)
    (fun t => t.pc == 0x40B0 && t.sr.toWord == 0x2700 && t.areg 7 == 0x7FF8 && t.mem.read 0x7FFC
      .long == 0x1000 && t.mem.read 0x7FF8 .long == 0x402C2700) = true := by decide

/-- opword $0000, section 2.8 row 1. -/
theorem test_opword_0_1 : gives [0x0]
    (poke .long 0x10 0x4040 (withSr 0x15 start))
    (fun t => t.pc == 0x4040 && t.sr.toWord == 0x2015 && t.areg 7 == 0x7FF8 && t.mem.read 0x7FFC
      .long == 0x1000 && t.mem.read 0x7FF8 .long == 0x40100015) = true := by decide

/-- opword $4AFC, section 2.8 row 2. -/
theorem test_opword_4afc_1 : gives [0x4AFC]
    (poke .long 0x10 0x4040 start)
    (fun t => t.pc == 0x4040 && t.sr.toWord == 0x2700 && t.areg 7 == 0x7FF8 && t.mem.read 0x7FFC
      .long == 0x1000 && t.mem.read 0x7FF8 .long == 0x40102700) = true := by decide

/-- opword $AFFF, section 2.8 row 4. -/
theorem test_opword_afff_1 : gives [0xAFFF]
    (poke .long 0x28 0x40A0 (start.setA 7 0x8001))
    (fun t => t.pc == 0x40A0 && t.sr.toWord == 0x2700 && t.areg 7 == 0x7FF8 && t.mem.read 0x7FFC
      .long == 0x1000 && t.mem.read 0x7FF8 .long == 0x50282700) = true := by decide

/-- opword $FFFF, section 2.8 row 6. -/
theorem test_opword_ffff_1 : gives [0xFFFF]
    (poke .long 0x2C 0x40B0 (start.setA 7 0x2))
    (fun t => t.pc == 0x40B0 && t.sr.toWord == 0x2700 && t.areg 7 == 0xFFFFFFF8 && t.mem.read
      0xFFFFFFFC .long == 0x1000 && t.mem.read 0xFFFFFFF8 .long == 0x602C2700) = true := by decide

/-- MOVE.W (A0)+,D0, section 2.8 row 12. -/
theorem test_move_w_3 : gives [0x3018]
    (fixedFs (poke .long 0xC 0x4030 ((start.setA 0 0x2001).setD 0 0x11111111)))
    (fun t => t.pc == 0x4030 && t.sr.toWord == 0x2700 && t.areg 0 == 0x2003 && t.areg 7 == 0x7FF8
      && t.mem.read 0x7FFC .long == 0x1000 && t.mem.read 0x7FF8 .long == 0x400C2700) = true := by
      decide

/-- MOVE.L D0,-(A7), section 2.8 row 14. -/
theorem test_move_l_4 : gives [0x2F00]
    (fixedFs (poke .long 0xC 0x4030 ((start.setA 7 0x8002).setD 0 0x7)))
    (fun t => t.pc == 0x4030 && t.sr.toWord == 0x2700 && t.areg 7 == 0x7FF4 && t.mem.read 0x7FF8
      .long == 0x1000 && t.mem.read 0x7FF4 .long == 0x600C2700) = true := by decide
/-! ## Decoding: a word written out from its encoding for every constructor -/

/-- The words decode to the instruction, with none left over. -/
def reads (ws : List Word) (i : Instr) : Bool :=
  match decodeWords .default ws with
  | .ok (j, []) => i == j
  | _ => false

theorem test_decode_immediates :
    reads [0x0081, 0x1234, 0x5678] (.ori 1 0x12345678) &&
    reads [0x0282, 0x1234, 0x5678] (.andi 2 0x12345678) &&
    reads [0x0483, 0x1234, 0x5678] (.subi 3 0x12345678) &&
    reads [0x0684, 0x1234, 0x5678] (.addi 4 0x12345678) &&
    reads [0x0A85, 0x1234, 0x5678] (.eori 5 0x12345678) &&
    reads [0x0C86, 0x1234, 0x5678] (.cmpi 6 0x12345678) = true := by decide

theorem test_decode_bits :
    reads [0x0300] (.btstDyn 1 (.dn 0)) && reads [0x0810, 0xFF08] (.btstImm 8 (.ind 0)) &&
    reads [0x0558] (.bchgDyn 2 (.postinc 0)) && reads [0x0843, 0x001F] (.bchgImm 31 (.dn 3)) &&
    reads [0x07A1] (.bclrDyn 3 (.predec 1)) &&
    reads [0x08A9, 0x0007, 0x0004] (.bclrImm 7 (.disp 1 4)) &&
    reads [0x09F9, 0x0001, 0x2344] (.bsetDyn 4 (.absL 0x12344)) &&
    reads [0x08D0, 0x0007] (.bsetImm 7 (.ind 0)) = true := by decide

theorem test_decode_moves :
    reads [0x1200] (.moveB (.dn 0) (.dn 1)) &&
    reads [0x36BC, 0x8000] (.moveW (.imm 0x8000) (.ind 3)) &&
    reads [0x2569, 0x0008, 0x0004] (.moveL (.disp 1 8) (.disp 2 4)) &&
    reads [0x2430, 0x1C04] (.moveL (.index 0 ⟨.d 1, true, 2, false, 4⟩) (.dn 2)) &&
    reads [0x307C, 0x8000] (.moveaW (.imm 0x8000) 0) && reads [0x2C4F] (.moveaL (.an 7) 6) &&
    reads [0x72FF] (.moveq 0xFF 1) = true := by decide

theorem test_decode_line4_registers :
    reads [0x4081] (.negx 1) && reads [0x40C2] (.moveFromSr 2) && reads [0x42C3] (.moveFromCcr 3) &&
    reads [0x4484] (.neg 4) && reads [0x4685] (.not 5) && reads [0x4886] (.extW 6) &&
    reads [0x48C7] (.extL 7) && reads [0x49C0] (.extbL 0) && reads [0x4841] (.swap 1) = true := by
  decide

theorem test_decode_line4_operands :
    reads [0x4219] (.clrB (.postinc 1)) && reads [0x4240] (.clrW (.dn 0)) &&
    reads [0x42A1] (.clrL (.predec 1)) && reads [0x44FC, 0x00FF] (.moveToCcr (.imm 0xFF)) &&
    reads [0x46C1] (.moveToSr (.dn 1)) && reads [0x4850] (.pea (.ind 0)) &&
    reads [0x48D7, 0x0103] (.movemStore 0x0103 (.ind 7)) &&
    reads [0x4CE8, 0x8104, 0x0008] (.movemLoad 0x8104 (.disp 0 8)) &&
    reads [0x4A3C, 0x0080] (.tstB (.imm 0x80)) && reads [0x4A48] (.tstW (.an 0)) &&
    reads [0x4A98] (.tstL (.postinc 0)) && reads [0x4C10, 0x3000] (.muluL 3 (.ind 0)) &&
    reads [0x4C01, 0x2800] (.mulsL 2 (.dn 1)) = true := by decide

theorem test_decode_line4_system :
    reads [0x4AC8] .halt && reads [0x4ACC] .pulse && reads [0x4AFC] .illegal4AFC &&
    reads [0x4E4F] (.trap 15) && reads [0x4E56, 0xFFF8] (.link 6 0xFFF8) && reads [0x4E5E] (.unlk 6) &&
    reads [0x4E71] .nop && reads [0x4E72, 0x2000] (.stop 0x2000) && reads [0x4E73] .rte &&
    reads [0x4E75] .rts && reads [0x4E7B, 0x8801] (.movec (.a 0) 0x801) &&
    reads [0x4EB9, 0x0001, 0x2344] (.jsr (.absL 0x12344)) && reads [0x4EFA, 0x0004] (.jmp (.pcDisp 4)) &&
    reads [0x43F0, 0x8A7F] (.lea (.index 0 ⟨.a 0, true, 1, false, 0x7F⟩) 1) = true := by decide

theorem test_decode_line5 :
    reads [0x5080] (.addq 0 (.dn 0)) && reads [0x5B8F] (.subq 5 (.an 7)) &&
    reads [0x57C0] (.scc .eq 0) && reads [0x51FA] (.trapf .none) &&
    reads [0x51FB, 0x1234] (.trapfW (.word 0x1234)) &&
    reads [0x51FC, 0x1234, 0x5678] (.trapfL (.long 0x12345678)) = true := by decide

theorem test_decode_branches :
    reads [0x60FE] (.bra (.byte 0xFE)) && reads [0x6100, 0x7FFC] (.bsr (.word 0x7FFC)) &&
    reads [0x6202] (.bhi (.byte 2)) && reads [0x6302] (.bls (.byte 2)) &&
    reads [0x64FF] (.bcc (.byte 0xFF)) && reads [0x6502] (.bcs (.byte 2)) &&
    reads [0x6604] (.bne (.byte 4)) && reads [0x6700, 0xFFFC] (.beq (.word 0xFFFC)) &&
    reads [0x6802] (.bvc (.byte 2)) && reads [0x6902] (.bvs (.byte 2)) &&
    reads [0x6A02] (.bpl (.byte 2)) && reads [0x6B02] (.bmi (.byte 2)) &&
    reads [0x6C02] (.bge (.byte 2)) && reads [0x6D02] (.blt (.byte 2)) &&
    reads [0x6E02] (.bgt (.byte 2)) && reads [0x6F02] (.ble (.byte 2)) = true := by decide

theorem test_decode_arithmetic :
    reads [0x8098] (.orToDn 0 (.postinc 0)) && reads [0x8390] (.orToEa 1 (.ind 0)) &&
    reads [0x9081] (.subToDn 0 (.dn 1)) && reads [0x9190] (.subToEa 0 (.ind 0)) &&
    reads [0x91C1] (.suba (.dn 1) 0) && reads [0x9581] (.subx 1 2) &&
    reads [0xB481] (.cmp (.dn 1) 2) && reads [0xB1C9] (.cmpa (.an 1) 0) &&
    reads [0xB181] (.eor 0 (.dn 1)) && reads [0xC4B8, 0x8000] (.andToDn 2 (.absW 0x8000)) &&
    reads [0xC390] (.andToEa 1 (.ind 0)) && reads [0xC2C0] (.muluW (.dn 0) 1) &&
    reads [0xC1FC, 0x8000] (.mulsW (.imm 0x8000) 0) &&
    reads [0xD0BC, 0x0000, 0x0001] (.addToDn 0 (.imm 1)) && reads [0xD199] (.addToEa 0 (.postinc 1)) &&
    reads [0xD5FB, 0x1802] (.adda (.pcIndex ⟨.d 1, true, 0, false, 2⟩) 2) &&
    reads [0xD583] (.addx 3 2) = true := by decide

theorem test_decode_shifts :
    reads [0xE280] (.asrImm 1 0) && reads [0xE2A3] (.asrReg 1 3) && reads [0xE180] (.aslImm 0 0) &&
    reads [0xE5A1] (.aslReg 2 1) && reads [0xE68A] (.lsrImm 3 2) && reads [0xE6A8] (.lsrReg 3 0) &&
    reads [0xE98B] (.lslImm 4 3) && reads [0xE9A8] (.lslReg 4 0) = true := by decide

theorem test_decode_debug_and_traps :
    reads [0xFB18] (.wddataB (.postinc 0)) && reads [0xFB61] (.wddataW (.predec 1)) &&
    reads [0xFB90] (.wddataL (.ind 0)) && reads [0xFBE9, 0x0003, 0x0004] (.wdebug (.disp 1 4)) &&
    reads [0x0000] .illegal0000 && reads [0xAFFF] (.lineA 0xFFF) && reads [0xF000] (.lineF 0) &&
    reads [0xFB80] (.lineF 0xB80) = true := by decide

/-- The words are no instruction, for the reason given. -/
def rejects (ws : List Word) (r : Reject) : Bool :=
  match decodeWords .default ws with
  | .error r' => r == r'
  | _ => false

/-- Undefined words of 95_test_vectors, a reserved bit in MULS.L, a wrong second word of WDEBUG,
and words that are missing. -/
theorem test_decode_rejects :
    rejects [0x237C, 0, 1, 8] (.undefinedOpword 0x237C) && rejects [0x08F8] (.undefinedOpword 0x08F8) &&
    rejects [0x4A08] (.undefinedOpword 0x4A08) && rejects [0x4E7A] (.undefinedOpword 0x4E7A) &&
    rejects [0x4AC0] (.undefinedOpword 0x4AC0) && rejects [0xD001] (.undefinedOpword 0xD001) &&
    rejects [0x4C01, 0x0801] (.reservedExtension 0x0801) &&
    rejects [0xFBD1, 0x0002] (.reservedPrivileged 2) && rejects [0x0680, 0] .truncated = true := by
  decide

/-! ## Well-formedness: an ill-formed term for each check -/

theorem test_wf_accepts : (Instr.moveL (.disp 1 8) (.disp 2 4)).wf .default = true := by decide

theorem test_wf_refuses_modes :
    ((Instr.btstDyn 0 (.an 0)).wf .default || (Instr.bchgDyn 0 (.imm 1)).wf .default ||
     (Instr.bsetImm 0 (.absW 0)).wf .default || (Instr.moveB (.an 0) (.dn 0)).wf .default ||
     (Instr.moveL (.dn 0) (.an 0)).wf .default || (Instr.moveL (.dn 0) (.pcDisp 0)).wf .default ||
     (Instr.clrB (.an 0)).wf .default || (Instr.moveToSr (.ind 0)).wf .default ||
     (Instr.pea (.postinc 0)).wf .default || (Instr.movemLoad 1 (.postinc 0)).wf .default ||
     (Instr.tstB (.an 0)).wf .default || (Instr.mulsL 0 (.imm 0)).wf .default ||
     (Instr.addq 0 (.imm 0)).wf .default || (Instr.orToDn 0 (.an 0)).wf .default ||
     (Instr.addToEa 0 (.dn 0)).wf .default || (Instr.eor 0 (.an 0)).wf .default ||
     (Instr.muluW (.an 0) 0).wf .default || (Instr.wddataB (.dn 0)).wf .default ||
     (Instr.wdebug (.absL 0)).wf .default) = false := by decide

theorem test_wf_refuses_operands :
    ((Instr.moveB (.imm 0x100) (.dn 0)).wf .default || (Instr.moveW (.imm 0x10000) (.dn 0)).wf .default ||
     (Instr.moveaW (.imm 0x10000) 0).wf .default || (Instr.tstW (.imm 0x10000)).wf .default ||
     (Instr.moveToCcr (.imm 0x10000)).wf .default || (Instr.mulsW (.imm 0x10000) 0).wf .default ||
     (Instr.btstDyn 0 (.imm 0x100)).wf .default || (Instr.bne (.byte 0)).wf .default ||
     (Instr.trapf (.word 0)).wf .default || (Instr.trapfW .none).wf .default ||
     (Instr.trapfL (.word 0)).wf .default || (Instr.lineF 0xB10).wf .default ||
     (Instr.moveL (.imm 1) (.disp 1 8)).wf .default ||
     (Instr.moveL (.absW 0) (.absW 0)).wf .default ||
     (Instr.lineF 0x123).wf { Config.default with flineExtra := [0xF123] }) = false := by decide

/-! ## Whole steps (95_test_vectors sections 2.9 to 2.11) -/

/-- An instruction stored at the program counter. -/
def load (ws : List Word) (s : State) : State := { s with
  mem := (ws.zipIdx).foldl
    (fun m (w, k) => Memory.write m (s.pc + BitVec.ofNat 32 (2 * k)) .word (w.setWidth 32)) s.mem }

/-- Nothing answers. -/
def noAnswer : Answers := { fetch := false, read := false, write := .busError }

/-- The map of section 2.9: RAM at $0-$3FF, $1000-$1FFF, $4000-$4FFF, $7000-$8FFF, a write-protected
range at $C000-$CFFF, and errors elsewhere. -/
def map29 : MemoryMap where
  regions := [⟨0, 0x3FF, .ram, .ram⟩, ⟨0x1000, 0x1FFF, .ram, .ram⟩, ⟨0x4000, 0x4FFF, .ram, .ram⟩,
    ⟨0x7000, 0x8FFF, .ram, .ram⟩,
    ⟨0xC000, 0xCFFF, { fetch := true, read := true, write := .writeProtected },
      { fetch := true, read := true, write := .writeProtected }⟩]
  user := noAnswer
  supervisor := noAnswer

/-- The start state of section 2.9. -/
def start29 : State := { start with memoryMap := map29 }

/-- An interrupt request with the answer to its acknowledge. -/
def request (level : BitVec 3) (ack : Iack) : EnvInput :=
  { EnvInput.idle with irqLevel := level, iack := ack }

/-- FE2: the fetch of the operation word faults. -/
theorem test_step_fetch_error : steps
    (poke .long 8 0x4020 (start29.setPc 0x9000))
    (fun t => t.pc == 0x4020 && t.mem.read 0x7FFC .long == 0x9000
      && t.mem.read 0x7FF8 .long == 0x44082700) = true := by decide

/-- RD1: the operand read faults after A0 is incremented. -/
theorem test_step_read_error : steps
    (poke .long 8 0x4020 (load [0x2018] (start29.setA 0 0x9000)))
    (fun t => t.pc == 0x4020 && t.areg 0 == 0x9004 && t.mem.read 0x7FF8 .long == 0x4C082700) =
      true := by decide

/-- WR1, first step: the store completes and its error stays pending. -/
theorem test_step_write_error_pending : steps
    (load [0x20C0] ((start29.setA 0 0x9000).setD 0 0x80000000))
    (fun t => t.pc == 0x1002 && t.areg 0 == 0x9004 && t.writeBuffer.length == 1
      && t.mem.read 0x9000 .long == 0) = true := by decide

/-- ADD.L D0,(A0) and PEA (A0) on write-protected space: flags, registers and PC done, memory as it
was, the error pending (20_memory R67). -/
theorem test_write_error_completes :
    gives [0xD190] ((start29.setA 0 0xC000).setD 0 0x80000000)
      (fun t => t.pc == 0x1002 && t.sr.toWord == 0x2708 && t.mem == start29.mem
        && t.writeBuffer == [⟨0xC000, .long, 0x80000000, 9⟩]) &&
    gives [0x4850] ((start29.setA 0 0x2000).setSp 0xC104)
      (fun t => t.pc == 0x1002 && t.sp == 0xC100 && t.mem == start29.mem
        && t.writeBuffer == [⟨0xC100, .long, 0x2000, 9⟩]) = true := by decide

/-- BSR with a misaligned stack: vector 3 on an aligned frame, SP decremented before (decision D4):
from $8002 to $7FFE, and the frame at $7FF4 with format 6. -/
theorem test_misaligned_push : steps
    (poke .long 0x0C 0x2000 (load [0x6104] (fixedFs (start.setSp 0x8002))))
    (fun t => t.pc == 0x2000 && t.sp == 0x7FF4 && t.mem.read 0x7FF8 .long == 0x1000
      && t.mem.read 0x7FF4 .long == 0x600C2700) = true := by decide

/-- WR2, third step: NOP reports it. -/
theorem test_step_nop_reports : steps
    (poke .long 8 0x4020 (load [0x4E71]
      { start29 with pc := 0x1004, writeBuffer := [⟨0xC000, .long, 1, 9⟩] }))
    (fun t => t.pc == 0x4020 && t.mem.read 0x7FFC .long == 0x1004
      && t.mem.read 0x7FF8 .long == 0x48092700 && t.writeBuffer == []) = true := by decide

/-- WDEBUG in user mode with a second word other than $0003: the privilege violation comes before
the word is looked at (60_exceptions R450 step 8). -/
theorem test_step_user_wdebug : steps
    (poke .long 0x20 0x2000 (load [0xFBD1, 0x0002] (withSr 0x0000 start)))
    (fun t => t.pc == 0x2000 && t.mem.read 0x7FFC .long == 0x1000
      && t.mem.read 0x7FF8 .long == 0x40200000) = true := by decide

/-- FF1: an odd handler address halts the processor. -/
theorem test_step_fault_on_fault : steps (poke .long 0x10 0x4041 (load [0x4AFC] start29))
    (fun t => t.run == .haltedFault) = true := by decide

/-- IA2: an interrupt with a vector from the device, above the mask, on a misaligned stack. -/
theorem test_step_interrupt : steps
    (poke .long 0x320 0x4C80 (load [0x4E71] (withSr 0x2215
      { start.setSp 0x8001 with env := [request 5 (.vector 200)] })))
    (fun t => t.pc == 0x4C80 && t.sr.toWord == 0x2515 && t.sp == 0x7FF8
      && t.mem.read 0x7FFC .long == 0x1002 && t.mem.read 0x7FF8 .long == 0x53202215) = true := by
  decide

/-- IA5: none at the level of the mask. -/
theorem test_step_interrupt_masked : steps
    (load [0x4E71] (withSr 0x2515 { start with env := [request 5 (.vector 15)] }))
    (fun t => t.pc == 0x1002 && t.sr.toWord == 0x2515 && t.prevIrqLevel == 5) = true := by decide

/-- IN3, first step: a transition to level 7 at the boundary after TRAP is latched, not taken. -/
theorem test_step_interrupt_inhibited : steps
    (poke .long 0x80 0x2000 (load [0x4E40] (withSr 0x2000
      { start with env := [request 7 .autovector] })))
    (fun t => t.pc == 0x2000 && t.nmiLatched && t.irqInhibit && t.mem.read 0x7FFC .long == 0x1002) =
      true := by decide

/-- P4, first step: trace comes before the pending interrupt. -/
theorem test_step_trace : steps
    (poke .long 0x24 0x2000 (load [0x5280] (withSr 0xA000
      { start with env := [request 3 .autovector] })))
    (fun t => t.pc == 0x2000 && t.dreg 0 == 1 && t.sr.toWord == 0x2000
      && t.mem.read 0x7FF8 .long == 0x4024A000) = true := by decide

/-- RS1: reset. -/
theorem test_step_reset : steps
    (poke .long 4 0x400 (poke .long 0 0x8000
      { start with vbr := 1, env := [{ EnvInput.idle with reset := true }] }))
    (fun t => t.pc == 0x400 && t.sp == 0x8000 && t.vbr == 0 && t.sr.s && t.sr.i == 7) = true := by
  decide

/-- ST2: an interrupt ends the stopped state. -/
theorem test_step_stopped : steps
    (poke .long 0x100 0x500 (withSr 0x2000
      { start with pc := 0x40A, run := .stopped, env := [request 1 (.vector 64)] }))
    (fun t => t.pc == 0x500 && t.run == .running && t.mem.read 0x7FF8 .long == 0x41002000) = true := by
  decide

/-- The first instruction after reset, placed by `withFetchWord`: MOVEQ #1,D0. -/
theorem test_step_first_instruction : steps (State.reset.withFetchWord 16 0x7001)
    (fun t => t.dreg 0 == 1 && t.pc == 2) = true := by decide

/-- Table 3-10 of 95_test_vectors 1.6: the conditions for NZVC = 0000, 0001, ..., 1111. -/
def conditionRow (c : Cond) : List Bool :=
  (List.range 16).map fun k => condHolds c (SR.ofWord (BitVec.ofNat 16 k))

theorem test_conditions :
    conditionRow .hi = [true, false, true, false, false, false, false, false,
      true, false, true, false, false, false, false, false] ∧
    conditionRow .lt = [false, false, true, true, false, false, true, true,
      true, true, false, false, true, true, false, false] ∧
    conditionRow .gt = [true, true, false, false, false, false, false, false,
      false, false, true, true, false, false, false, false] := by decide

/-! ## A state and operands for the hypotheses of every statement of the obligations -/

/-- The misalignment module fitted (00_scope R5). -/
def splitting (s : State) : State := { s with cfg := { s.cfg with hasMisalign := true } }

/-- User mode. -/
def userStart : State := withSr 0x0004 start

/-- One input. -/
def given (i : EnvInput) (s : State) : State := { s with env := [i] }

/-- A write error of each kind pending. -/
def twoErrors (s : State) : State := { s with
  writeBuffer := [⟨0xC000, .long, 1, 9⟩, ⟨0x9000, .byte, 2, 8⟩] }

/-- An index word that is valid: D1, long, scale 4, displacement -1. -/
def goodIndex : IndexWord := ⟨.d 1, true, 2, false, 0xFF⟩

theorem wit_StepRunsDecodedInstruction_next :
    let s := load [0x2569, 8, 4] start
    let i := Instr.moveL (.disp 1 8) (.disp 2 4)
    s.run = .running ∧ s.input.reset = false ∧ s.input.reportWriteError = false ∧ s.stale = [] ∧
    i.wf s.cfg = true ∧ decodeWords s.cfg (wordsAt s.mem s.pc (1 + i.extWords)) = .ok (i, []) ∧
    (∀ k, k ≤ i.extWords → s.canFetch (s.pc + BitVec.ofNat 32 (2 * k)) = true) ∧
    ∃ t, exec i (beginInstr (takeInput s)) = .next t :=
  ⟨rfl, rfl, rfl, rfl, by decide, by rfl, by decide, _, rfl⟩

theorem wit_StepRunsDecodedInstruction_refused :
    let s := load [0x4E5F] { start with pc := 0xFFFFFFFE }
    let i := Instr.unlk 7
    s.run = .running ∧ s.input.reset = false ∧ s.input.reportWriteError = false ∧ s.stale = [] ∧
    i.wf s.cfg = true ∧ decodeWords s.cfg (wordsAt s.mem s.pc (1 + i.extWords)) = .ok (i, []) ∧
    (∀ k, k ≤ i.extWords → s.canFetch (s.pc + BitVec.ofNat 32 (2 * k)) = true) ∧
    exec i (beginInstr (takeInput s)) = .refused .unlkA7 :=
  ⟨rfl, rfl, rfl, rfl, by decide, by rfl, by decide, rfl⟩

/-- What a statement about a step of a running machine asks of its state. -/
def runs (s : State) : Bool :=
  s.run == .running && !s.input.reset && (!s.input.reportWriteError || s.writeBuffer == [])
    && s.stale == []

/-- The words at the program counter. -/
def opwordAt (s : State) : Word := s.mem.byte s.pc.toNat ++ s.mem.byte (s.pc + 1).toNat

theorem wit_StepRunsDecodedInstruction_unfetchable :
    let s := start29.setPc 0x9000
    let s' := load [0x0680] (start29.setPc 0x1FFE)
    runs s = true ∧ s.canFetch s.pc = false ∧
    runs s' = true ∧ s'.canFetch s'.pc = true ∧
    (∃ form, decodeOp s'.cfg (opwordAt s') = .ok form ∧ form.words = 2) ∧
    s'.canFetch (s'.pc + BitVec.ofNat 32 (2 * 1)) = false :=
  ⟨by decide, by decide, by decide, by decide, ⟨_, rfl, rfl⟩, by decide⟩

theorem wit_StepRunsDecodedInstruction_undefined :
    let s := load [0x4E7A] start
    let s' := { s with cfg := { s.cfg with undefinedOpwordTraps := true } }
    let u := load [0xF123] { start with cfg := { start.cfg with flineExtra := [0xF123] } }
    runs s = true ∧ s.canFetch s.pc = true ∧ s.cfg.undefinedOpwordTraps = false ∧
    decodeOp s.cfg (opwordAt s) = .error (.undefinedOpword 0x4E7A) ∧
    runs s' = true ∧ s'.canFetch s'.pc = true ∧ s'.cfg.undefinedOpwordTraps = true ∧
    decodeOp s'.cfg (opwordAt s') = .error (.undefinedOpword 0x4E7A) ∧
    runs u = true ∧ u.canFetch u.pc = true ∧
    decodeOp u.cfg (opwordAt u) = .error (.lineFElsewhere 0xF123) :=
  ⟨by decide, by decide, rfl, rfl, by decide, by decide, rfl, rfl, by decide, by decide, rfl⟩

theorem wit_StepRunsDecodedInstruction_reserved :
    let s := load [0x4C01, 0x0801] start
    let s' := load [0xFBD1, 0x0002] start
    let u := withSr 0 s'
    (runs s = true ∧ ∃ form, decodeOp s.cfg (opwordAt s) = .ok form ∧
      (∀ k, k ≤ form.words → s.canFetch (s.pc + BitVec.ofNat 32 (2 * k)) = true) ∧
      form.complete (wordsAt s.mem (s.pc + 2) form.words) = .error (.reservedExtension 0x0801)) ∧
    (runs s' = true ∧ runs u = true ∧ s'.sr.s = true ∧ u.sr.s = false ∧
      ∃ form, decodeOp s'.cfg (opwordAt s') = .ok form ∧
      (∀ k, k ≤ form.words → s'.canFetch (s'.pc + BitVec.ofNat 32 (2 * k)) = true) ∧
      form.complete (wordsAt s'.mem (s'.pc + 2) form.words) = .error (.reservedPrivileged 2)) :=
  ⟨⟨by decide, _, rfl, by decide, rfl⟩, by decide, by decide, rfl, rfl, _, rfl, by decide, rfl⟩

theorem wit_DecodeAfterEncode : (Instr.moveL (.imm 0x12345678) (.predec 7)).wf .default = true ∧
    (Instr.lineF 0xFFF).wf .default = true := by decide

theorem wit_DecodedIsWellFormed :
    decodeWords .default [0x51FC, 0x1234, 0x5678, 9] = .ok (.trapfL (.long 0x12345678), [9]) := by
  rfl

theorem wit_ExceptionWordsDecode : isDebugWord 0x000 = false ∧ isDebugWord 0xFFF = false ∧
    Config.default.flineExtra.contains (0xF#4 ++ 0xFFF#12) = false := by decide

theorem wit_MemoryIsBigEndian : 2 ∉ byteAddrs 0xFFFFFFFE .long ∧
    0xFFFFFFFD ∉ byteAddrs 0xFFFFFFFE .long ∧ 5 ∉ byteAddrs 4 .byte := by decide

theorem wit_MemoryIsCanonical :
    let m := Memory.write (Memory.write [] 8 .word 0x0102) 0xFFFFFFFE .long 0x03000004
    let m' := Memory.write (Memory.write [] 0xFFFFFFFE .long 0x03000004) 8 .word 0x0102
    m.wf = true ∧ m'.wf = true ∧ ∀ a, m.byte a = m'.byte a := by
  refine ⟨by decide, by decide, fun a => ?_⟩
  congr 1

theorem wit_OperandRead :
    eaReadable (.dn 7) .byte start = true ∧ eaReadable (.an 0) .word start = true ∧
    eaReadable (.imm 0x80) .byte start = true ∧ eaReadable (.ind 7) .long start = true ∧
    eaReadable (.postinc 7) .byte start = true ∧ eaReadable (.predec 0) .long start = true ∧
    eaReadable (.disp 0 0x8000) .word start = true ∧
    eaReadable (.index 1 ⟨.a 2, true, 0, false, 0x80⟩) .long start = true ∧
    eaReadable (.absW 0xFFFC) .long start = true ∧ eaReadable (.absL 0xFFFFFFFF) .byte start = true ∧
    eaReadable (.absL 0xFFFFFFFD) .long (splitting start) = true ∧
    eaReadable (.pcDisp 2) .long start = true ∧ eaReadable (.pcIndex goodIndex) .byte start = true := by
  decide

theorem wit_OperandReadFaults_index : eaIndexValid (.index 0 ⟨.d 0, false, 0, false, 0⟩) = false ∧
    eaIndexValid (.pcIndex ⟨.d 0, true, 3, false, 0⟩) = false ∧
    eaIndexValid (.pcIndex ⟨.d 0, true, 0, true, 0⟩) = false := by decide

theorem wit_OperandReadFaults_misaligned : eaIndexValid (.postinc 0) = true ∧
    eaAddr (.postinc 0) .long (start.setA 0 2) = some 2 ∧ aligned 2 .long (start.setA 0 2) = false := by
  decide

theorem wit_OperandReadFaults_access : eaIndexValid (.predec 0) = true ∧
    eaAddr (.predec 0) .word (start29.setA 0 0x9002) = some 0x9000 ∧
    aligned 0x9000 .word (start29.setA 0 0x9002) = true ∧
    readable 0x9000 .word (start29.setA 0 0x9002) = false := by decide

theorem wit_Stores_memory : writable 0xFFFFFFFC .long start = true ∧
    writable 0xFFFFFFFF .long (splitting start) = true ∧ aligned 0xFFFFFFFF .word start = false := by
  decide

theorem wit_Stores_error :
    (0xC000#32).toNat % Size.long.bytes = 0 ∧ start29.writeAnswer 0xC000 .long = .writeProtected ∧
    (0x9000#32).toNat % Size.word.bytes = 0 ∧ start29.writeAnswer 0x9000 .word = .busError := by decide

/-- Stores and a read-modify-write whose write ends in an error, and a store in pieces of which one
does: the premise of every statement about a store holds. -/
theorem wit_Stores_instructions :
    aligned 0xC000 .long start29 = true ∧ readable 0xC000 .long start29 = true ∧
    writable 0xC000 .long start29 = false ∧ aligned 0x9000 .byte start29 = true ∧
    writable 0x9000 .byte start29 = false ∧
    aligned ((start29.setSp 0xC104).sp - 4) .long (start29.setSp 0xC104) = true ∧
    writable ((start29.setSp 0xC104).sp - 4) .long (start29.setSp 0xC104) = false ∧
    aligned 0x8FFE .long (splitting start29) = true ∧
    writable 0x8FFE .long (splitting start29) = false := by decide

theorem wit_FetchSeesOldOrNew : start.canFetch 0xFFFFFFFE = true ∧ start.stale = [] ∧
    (load [0x4E71] { start29 with stale := [[(0x1000, 7)]] }).canFetch 0x1000 = true := by decide

theorem wit_MoveToRegister : eaReadable (.predec 1) .byte start = true ∧
    eaReadable (.postinc 0) .word start = true ∧ eaReadable (.postinc 0) .long start = true := by decide

theorem wit_MoveToMemory :
    let s := start.setA 0 0xFFFFFFFC
    eaReadable (.postinc 0) .long s = true ∧ storesUpdated (.postinc 0) (.predec 0) = false ∧
    eaIndexValid (.predec 0) = true ∧
    eaAddr (.predec 0) .long (eaAfter (.postinc 0) .long s) = some 0xFFFFFFFC ∧
    aligned 0xFFFFFFFC .long s = true := by decide

theorem wit_MoveOfUpdatedRegister :
    eaAddr (.postinc 7) .long start = some 0x8000 ∧ aligned 0x8000 .long start = true ∧
    eaAddr (.predec 7) .word start = some 0x7FFE ∧ aligned 0x7FFE .word start = true := by decide

theorem wit_AddressAndFrameInstructions :
    Ea.isControl (.index 7 goodIndex) = true ∧ eaIndexValid (.index 7 goodIndex) = true ∧
    eaAddr (.index 7 goodIndex) .long start = some 0x7FFF ∧ aligned (start.sp - 4) .long start = true ∧
    (6 : RegNum) ≠ 7 ∧ readable (start.areg 6) .long start = true := by decide

theorem wit_MoveMultiple :
    Ea.isIndOrDisp (.disp 7 0xFFFC) = true ∧ eaAddr (.disp 7 0xFFFC) .long start = some 0x7FFC ∧
    maskRegs 0x8001 = [.d 0, .a 7] ∧ maskRegs 0 = [] ∧ aligned 0x7FFC .long start = true ∧
    (∀ k, k < (maskRegs 0x8001).length →
      writable (0x7FFC + BitVec.ofNat 32 (4 * k)) .long start = true) ∧
    (∀ k, k < (maskRegs 0x8001).length →
      readable (0x7FFC + BitVec.ofNat 32 (4 * k)) .long start = true) := by decide

theorem wit_AddSubCompareRegister : eaReadable (.an 7) .long start = true ∧
    eaReadable (.imm 0x80000000) .long start = true ∧ eaReadable (.predec 0) .long start = true := by decide

theorem wit_AddressArithmetic : eaReadable (.postinc 0) .long start = true := by decide

theorem wit_Multiplication : eaReadable (.imm 0x8000) .word start = true ∧
    eaReadable (.disp 0 0x7FFC) .long start = true := by decide

theorem wit_ClearAndTest : eaIndexValid (.absL 0xFFFFFFFE) = true ∧
    eaAddr (.absL 0xFFFFFFFE) .word start = some 0xFFFFFFFE ∧ aligned 0xFFFFFFFE .word start = true ∧
    eaReadable (.imm 0x80) .byte start = true := by decide

theorem wit_LogicalOnRegister : eaReadable (.pcIndex ⟨.a 0, true, 1, false, 2⟩) .long start = true := by decide

theorem wit_ReadModifyWrite : eaIndexValid (.predec 0) = true ∧
    eaAddr (.predec 0) .long start = some 0xFFFFFFFC ∧ readable 0xFFFFFFFC .long start = true ∧
    aligned 0xFFFFFFFC .long start = true ∧ eaIndexValid (.postinc 7) = true ∧
    eaAddr (.postinc 7) .long start = some 0x8000 ∧ readable 0x8000 .long start = true ∧
    aligned 0x8000 .long start = true := by decide

theorem wit_BitTest : (∀ n, Ea.imm 0x80 ≠ .dn n) ∧ eaReadable (.imm 0x80) .byte start = true ∧
    (∀ n, Ea.postinc 0 ≠ .dn n) ∧ eaReadable (.postinc 0) .byte start = true := by decide

theorem wit_BitChange : eaIndexValid (.predec 0) = true ∧
    eaAddr (.predec 0) .byte start = some 0xFFFFFFFF ∧ readable 0xFFFFFFFF .byte start = true ∧
    aligned 0xFFFFFFFF .byte start = true := by decide

theorem wit_Branches_taken : Cond.eq ≠ .f ∧ condHolds .eq (withSr 4 start).sr = true ∧
    even ((withSr 4 start).pc + 2 + Disp.value (.byte 0x80)) = true := by decide

theorem wit_Branches_not_taken : Cond.ne ≠ .f ∧ condHolds .ne (withSr 4 start).sr = false := by decide

theorem wit_Branches_odd : Cond.t ≠ .f ∧ condHolds .t start.sr = true ∧
    even (start.pc + 2 + Disp.value (.word 0x7FFF)) = false := by decide

theorem wit_JumpsAndSubroutines :
    Ea.isControl (.pcDisp 0x8000) = true ∧ eaIndexValid (.pcDisp 0x8000) = true ∧
    eaAddr (.pcDisp 0x8000) .long start = some 0xFFFF9002 ∧ even 0xFFFF9002 = true ∧
    aligned (start.sp - 4) .long start = true ∧
    even (start.pc + 2 + Disp.value (.word 0)) = true ∧
    readable (poke .long 0x8000 0x1004 start).sp .long (poke .long 0x8000 0x1004 start) = true ∧
    even ((poke .long 0x8000 0x1004 start).mem.read (poke .long 0x8000 0x1004 start).sp .long) = true := by
  decide

theorem wit_OddTargetsRaise :
    Ea.isControl (.absW 0x7FFF) = true ∧ eaIndexValid (.absW 0x7FFF) = true ∧
    eaAddr (.absW 0x7FFF) .long start = some 0x7FFF ∧ even 0x7FFF = false ∧
    even (start.pc + 2 + Disp.value (.byte 0xFF)) = false ∧
    readable (poke .long 0x8000 1 start).sp .long (poke .long 0x8000 1 start) = true ∧
    even ((poke .long 0x8000 1 start).mem.read (poke .long 0x8000 1 start).sp .long) = false := by decide

theorem wit_TrapfAndNop : start.writeBuffer = [] := by decide

theorem wit_StatusRegisterMoves : start.sr.s = true ∧ eaReadable (.imm 0xFFFF) .word start = true := by decide

/-- A chip with CACR alone, and one whose missing MBAR hangs it. -/
def withCacr : State := { start with
  cfg := { start.cfg with implementedCtrl := [.cacr], mbarUnimplemented := .hang } }

/-- MOVEC D0,CACR on a chip that has it keeps the value (46_system_control R365). -/
theorem test_movec_implemented : gives [0x4E7B, 0x0002] (withCacr.setD 0 0x80000100)
    (fun t => t.pc == 0x1004 && t.ctrl.cacr == 0x80000100 && t.ctrl.tcr == 0) = true := by decide

theorem wit_MoveControl : start.sr.s = true ∧ withCacr.sr.s = true ∧
    (0x002, CtrlReg.cacr) ∈ ctrlCodes ∧ withCacr.cfg.implementedCtrl.contains .cacr = true ∧
    (0xC05, CtrlReg.rambar1) ∈ ctrlCodes ∧ withCacr.cfg.implementedCtrl.contains .rambar1 = false ∧
    CtrlReg.rambar1 ≠ .mbar ∧
    (0xC0F, CtrlReg.mbar) ∈ ctrlCodes ∧ withCacr.cfg.implementedCtrl.contains .mbar = false ∧
    withCacr.cfg.mbarUnimplemented = .hang ∧
    start.cfg.implementedCtrl.contains .mbar = false ∧ start.cfg.mbarUnimplemented = .accessError := by decide

/-- A frame at $7FF8 with this first long word. -/
def framedAt (w0 w1 : Long) : State := poke .long 0x7FFC w1 (poke .long 0x7FF8 w0 (start.setSp 0x7FF8))

theorem wit_ReturnFromException_valid :
    let s := framedAt 0x70080000 0x1000
    let s' := framedAt 0x40080000 0xFFFFFFFE
    s.sr.s = true ∧ readable s.sp .long s = true ∧ (s.mem.read s.sp .long).toNat / 2 ^ 28 = 7 ∧
    readable (s.sp + 4) .long s = true ∧ even (s.mem.read (s.sp + 4) .long) = true ∧
    s'.sr.s = true ∧ readable s'.sp .long s' = true ∧ (s'.mem.read s'.sp .long).toNat / 2 ^ 28 = 4 ∧
    readable (s'.sp + 4) .long s' = true ∧ even (s'.mem.read (s'.sp + 4) .long) = true := by decide

theorem wit_ReturnFromException_format :
    let s := framedAt 0x30080000 0x1000
    let s' := framedAt 0x80080000 0x1000
    s.sr.s = true ∧ readable s.sp .long s = true ∧ (s.mem.read s.sp .long).toNat / 2 ^ 28 = 3 ∧
    s'.sr.s = true ∧ readable s'.sp .long s' = true ∧ (s'.mem.read s'.sp .long).toNat / 2 ^ 28 = 8 := by
  decide

theorem wit_ReturnFromException_errors :
    let s := framedAt 0x40080000 0x1001
    let odd := start.setSp 0x8001
    let top := poke .long 0x8FFC 0x40080000 (start29.setSp 0x8FFC)
    let none' := start29.setSp 0x9000
    (s.sr.s = true ∧ readable s.sp .long s = true ∧ (s.mem.read s.sp .long).toNat / 2 ^ 28 = 4 ∧
      readable (s.sp + 4) .long s = true ∧ even (s.mem.read (s.sp + 4) .long) = false) ∧
    (odd.sr.s = true ∧ readable odd.sp .long odd = false ∧ none'.sr.s = true ∧
      readable none'.sp .long none' = false) ∧
    top.sr.s = true ∧ readable top.sp .long top = true ∧
    (top.mem.read top.sp .long).toNat / 2 ^ 28 = 4 ∧ readable (top.sp + 4) .long top = false := by
  decide

theorem wit_StopAndHalt : start.sr.s = true ∧ start.writeBuffer = [] ∧ start.sr.t = false ∧
    (withSr 0xA000 start).sr.s = true ∧ (withSr 0xA000 start).writeBuffer = [] ∧
    (withSr 0xA000 start).sr.t = true := by decide

theorem wit_DebugInstructions :
    userStart.cfg.pulseWddataPrivileged = false ∧ userStart.sr.s = false ∧ start.sr.s = true ∧
    eaReadable (.ind 0) .byte userStart = true ∧
    Ea.isIndOrDisp (.disp 0 0xFFFC) = true ∧ eaAddr (.disp 0 0xFFFC) .long start = some 0xFFFFFFFC ∧
    (0xFFFFFFFC#32).toNat % 4 = 0 ∧ readable 0xFFFFFFFC .long start = true ∧
    readable (0xFFFFFFFC + 4) .long start = true := by decide

theorem wit_TrappingInstructions :
    canEnter (32 + BitVec.setWidth 8 (15 : BitVec 4)) (start.pc + 2) 0 start = true ∧
    canEnter 4 start.pc 0 start = true ∧ canEnter 10 start.pc 0 start = true ∧
    canEnter 11 start.pc 0 start = true := by decide

theorem wit_PrivilegeViolations :
    let s := { userStart with cfg := { userStart.cfg with pulseWddataPrivileged := true } }
    s.sr.s = false ∧ canEnter 8 s.pc 0 s = true ∧ isPrivileged (.movec (.d 0) 0x801) = true ∧
    s.cfg.pulseWddataPrivileged = true := by decide

theorem wit_PendingWriteErrorIsReported :
    let s := given { EnvInput.idle with reportWriteError := true } (twoErrors start)
    s.writeBuffer = ⟨0xC000, .long, 1, 9⟩ :: [⟨0x9000, .byte, 2, 8⟩] ∧ s.sr.s = true ∧
    s.run = .running ∧ s.input.reset = false ∧ s.input.reportWriteError = true := by decide

theorem wit_ExceptionEntry : canEnter 255 0x1000 0xF (start.setSp 0x8003) = true ∧
    canEnter 2 0 0 (start.setSp 4) = true := by decide

theorem wit_FaultOnFaultHalts :
    canEnter 4 0x1000 0 (poke .long 0x10 0x4041 start29) = false ∧
    canEnter 4 0x1000 0 (start29.setSp 0xC100) = false ∧
    canEnter 4 0x1000 0 (poke .long 0x10 0x9000 start29) = false ∧
    canEnter 4 0x1000 0 { start29 with vbr := 0x001 } = false := by decide

theorem wit_FrameIsSelfAligned :
    let s := start.setSp 0x8003
    let t := takeException 33 0x1004 0 (some 5) s
    canEnter 33 0x1004 0 s = true ∧ s.sp.toNat % 4 = 3 ∧ even 0x1004 = true ∧
    readable t.sp .long t = true ∧ readable (t.sp + 4) .long t = true ∧
    canEnter 33 0x1004 0 (start.setSp 2) = true := by decide

theorem wit_RteUndoesEntry :
    let s := withSr 0x271F (start.setSp 0x8002)
    canEnter 33 0x1004 0 s = true ∧ even 0x1004 = true ∧
    readable (frameBase s) .long (inHandlerMode s) = true ∧
    readable (frameBase s + 4) .long (inHandlerMode s) = true := by decide

theorem wit_ExceptionVectors :
    ({ start.cfg with hasAutovector := true } : Config).hasAutovector = true ∧
    start.cfg.addressErrorFs = none ∧
    (fixedFs start).cfg.addressErrorFs = some ⟨0, 0, 0, 0⟩ ∧ start.run = .running ∧
    ({ start with tracePending := true } : State).tracePending = true ∧
    start.tracePending = false ∧ start.irqInhibit = false ∧
    ({ start with debugIrqPending := true } : State).debugIrqPending = true := by decide

theorem wit_OperandFaultsTrap_index : eaIndexValid (.index 0 ⟨.d 0, false, 0, false, 0⟩) = false ∧
    eaIndexValid (.pcIndex ⟨.a 7, true, 3, false, 0⟩) = false := by decide

theorem wit_OperandFaultsTrap_misaligned : eaIndexValid (.postinc 0) = true ∧
    eaAddr (.postinc 0) .word (start.setA 0 1) = some 1 ∧
    readable 1 .word (start.setA 0 1) = false ∧ aligned 1 .word (start.setA 0 1) = false := by decide

theorem wit_OperandFaultsTrap_access : eaIndexValid (.absL 0x9000) = true ∧
    eaAddr (.absL 0x9000) .byte start29 = some 0x9000 ∧ aligned 0x9000 .byte start29 = true ∧
    readable 0x9000 .byte start29 = false := by decide

theorem wit_OperandFaultsTrap_destination :
    let s := start.setA 0 0x2002
    eaReadable (.dn 0) .long s = true ∧ storesUpdated (.dn 0) (.predec 0) = false ∧
    eaIndexValid (.predec 0) = true ∧ eaAddr (.predec 0) .long (eaAfter (.dn 0) .long s) = some 0x1FFE ∧
    aligned 0x1FFE .long s = false := by decide

theorem wit_OperandFaultsTrap_push :
    let s := start.setSp 0x8002
    aligned (s.sp - 4) .long s = false ∧ Ea.isControl (.absW 0x2000) = true ∧
    eaIndexValid (.absW 0x2000) = true ∧ eaAddr (.absW 0x2000) .long s = some 0x2000 ∧
    even 0x2000 = true ∧ (6 : RegNum) ≠ 7 ∧ even (s.pc + 2 + Disp.value (.byte 4)) = true := by decide

theorem wit_OperandFaultsTrap_store :
    eaIndexValid (.predec 0) = true ∧
    eaAddr (.predec 0) .word (start.setA 0 0x2001) = some 0x1FFF ∧
    aligned 0x1FFF .word (start.setA 0 0x2001) = false ∧ Ea.isIndOrDisp (.ind 0) = true ∧
    eaAddr (.ind 0) .long (start.setA 0 0x2002) = some 0x2002 ∧ maskRegs 0x0001 ≠ [] ∧
    aligned 0x2002 .long (start.setA 0 0x2002) = false := by decide

theorem wit_OperandFaultsTrap_movem :
    Ea.isIndOrDisp (.ind 0) = true ∧
    eaAddr (.ind 0) .long (start29.setA 0 0x8FF8) = some 0x8FF8 ∧ 2 < (maskRegs 0x0107).length ∧
    (∀ k, k < 2 →
      readable (0x8FF8 + BitVec.ofNat 32 (4 * k)) .long (start29.setA 0 0x8FF8) = true) ∧
    readable (0x8FF8 + BitVec.ofNat 32 (4 * 2)) .long (start29.setA 0 0x8FF8) = false ∧
    readable (0x2002 + BitVec.ofNat 32 (4 * 0)) .long start = false := by decide

theorem wit_OperandFaultsTrap_unlk : (6 : RegNum) ≠ 7 ∧
    readable ((start29.setA 6 0x9000).areg 6) .long (start29.setA 6 0x9000) = false ∧
    readable ((start.setA 6 0x2002).areg 6) .long (start.setA 6 0x2002) = false := by decide

/-- The state that a step's instruction gives, before the boundary. -/
def instrGives (s : State) (check : State → Bool) : Bool :=
  match fetchInstr (beginInstr (takeInput s)) with
  | .ok (.ok i) u =>
    match exec i u with
    | .next t => check t
    | _ => false
  | _ => false

theorem wit_TraceExceptionIsTaken :
    let s := load [0x46FC, 0x2000] (withSr 0xA000 start)
    let u := load [0x46FC, 0xA000] start
    let x := load [0x4E40] (withSr 0xA000 start)
    runs s = true ∧ s.sr.t = true ∧
    instrGives s (fun t => t.run == .running && !t.irqInhibit && !t.sr.t) = true ∧
    runs u = true ∧ u.sr.t = false ∧
    instrGives u (fun t => t.run == .running && !t.irqInhibit && t.sr.t) = true ∧
    runs x = true ∧ x.sr.t = true ∧
    instrGives x (fun t => t.run == .running && t.irqInhibit) = true :=
  ⟨by decide, by decide, by decide, by decide, by decide, by decide, by decide, by decide, by decide⟩

theorem wit_InterruptRecognition_trace :
    let s := { start with tracePending := true }
    s.run = .running ∧ s.irqInhibit = false ∧ s.tracePending = true := by decide

theorem wit_InterruptRecognition_debug :
    let s := { start with debugIrqPending := true }
    let s' := { s with run := .stopped }
    s.run = .running ∧ s'.run = .stopped ∧ s.irqInhibit = false ∧ s.tracePending = false ∧
    s.debugIrqPending = true ∧ s'.irqInhibit = false ∧ s'.tracePending = false ∧
    s'.debugIrqPending = true := by decide

theorem wit_InterruptRecognition_latched :
    let s := { start with nmiLatched := true }
    s.run = .running ∧ s.tracePending = false ∧ s.irqInhibit = false ∧ s.debugIrqPending = false ∧
    (s.nmiLatched || (EnvInput.idle.irqLevel == 7 && s.prevIrqLevel != 7)) = true ∧
    (start.nmiLatched || ((request 7 .busError).irqLevel == 7 && start.prevIrqLevel != 7)) = true := by
  decide

theorem wit_InterruptRecognition_level :
    let s := withSr 0x2500 { start with run := .stopped }
    s.run = .stopped ∧ s.tracePending = false ∧ s.irqInhibit = false ∧ s.debugIrqPending = false ∧
    (s.nmiLatched || ((request 6 .autovector).irqLevel == 7 && s.prevIrqLevel != 7)) = false ∧
    s.sr.i.toNat < (request 6 .autovector).irqLevel.toNat ∧
    (s.nmiLatched || ((request 5 .autovector).irqLevel == 7 && s.prevIrqLevel != 7)) = false ∧
    (request 5 .autovector).irqLevel.toNat ≤ s.sr.i.toNat := by decide

theorem wit_InterruptsInhibitedInHandler :
    let s := { start with irqInhibit := true }
    s.run = .running ∧ s.tracePending = false ∧ s.irqInhibit = true := by decide

/-- A machine halted by HALT to which go comes, on a chip with the debug module. -/
def going : State :=
  given { EnvInput.idle with go := true }
    { start with run := .haltedByInstruction, cfg := { start.cfg with hasDebug := true } }

theorem wit_HaltedMachineWaits_go :
    let s := { going with tracePending := true }
    let u := { going with cfg := { start.cfg with hasDebug := false } }
    (going.input.reset = false ∧ going.run = .haltedByInstruction ∧ going.input.go = true ∧
      going.cfg.hasDebug = true ∧ going.tracePending = false ∧ going.debugIrqPending = false ∧
      going.input.debugIrq = false ∧ going.nmiLatched = false ∧ going.input.irqLevel = 0) ∧
    (s.input.reset = false ∧ s.run = .haltedByInstruction ∧ s.input.go = true ∧
      s.cfg.hasDebug = true ∧ s.tracePending = true) ∧
    u.input.reset = false ∧ u.run = .haltedByInstruction ∧ u.cfg.hasDebug = false := by decide

theorem wit_HaltedMachineWaits :
    ({ start with run := .haltedFault } : State).input.reset = false ∧
    ({ start with run := .haltedFault } : State).run = .haltedFault ∧
    ({ start with run := .haltedByInstruction } : State).run = .haltedByInstruction ∧
    ({ start with run := .haltedByInstruction } : State).input.go = false := by decide

/-- Reset requested. -/
def resetting (s : State) : State := given { EnvInput.idle with reset := true } s

/-- S set, as reset reads the vectors in supervisor mode. -/
def asSupervisor (s : State) : State := { s with sr := { s.sr with s := true } }

/-- The four conditions on which the start after reset depends. -/
def resetChecks (s : State) : List Bool :=
  [readable 0 .long (asSupervisor s), readable 4 .long (asSupervisor s), even (s.mem.read 4 .long),
    (asSupervisor s).canFetch (s.mem.read 4 .long)]

theorem wit_ResetTakesVectors : (resetting userStart).input.reset = true ∧
    resetChecks (resetting userStart) = [true, true, true, true] := by decide

/-- The map of section 2.9 with other regions. -/
def mapped (regions : List Region) : State :=
  resetting { start with memoryMap := { map29 with regions := regions } }

theorem wit_ResetFaultsHalt : (mapped []).input.reset = true ∧
    resetChecks (mapped [⟨0, 3, noAnswer, noAnswer⟩, ⟨4, 0xFFFF, .ram, .ram⟩]) =
      [false, true, true, false] ∧
    resetChecks (mapped [⟨0, 3, .ram, .ram⟩]) = [true, false, true, true] ∧
    resetChecks (resetting (poke .long 4 0x401 start)) = [true, true, false, true] ∧
    resetChecks (resetting (poke .long 4 0x9000 start29)) = [true, true, true, false] ∧
    ∃ t, step (mapped []) = .next t ∧ t.input.reset = false :=
  ⟨rfl, by decide, by decide, by decide, by decide, _, rfl, rfl⟩

theorem wit_StepKeepsInvariant : Inv (load [0x7001] start) ∧
    ∃ t, step (load [0x7001] start) = .next t :=
  ⟨⟨by decide, by decide, by decide, by decide, by decide⟩, _, rfl⟩

theorem wit_UserModeIsConfined :
    let s := load [0x7001] userStart
    let s' := poke .long 0x20 0x2000 (load [0x4E73] userStart)
    (s.run = .running ∧ s.input.reset = false ∧ s.sr.s = false ∧
      ∃ t, step s = .next t ∧ t.run ≠ .haltedFault ∧ t.sr.s = false) ∧
    (s'.run = .running ∧ s'.input.reset = false ∧ s'.sr.s = false ∧
      ∃ t, step s' = .next t ∧ t.run ≠ .haltedFault ∧ t.sr.s = true) :=
  ⟨⟨rfl, rfl, rfl, _, rfl, by decide, by decide⟩, rfl, rfl, rfl, _, rfl, by decide, by decide⟩

theorem wit_WellFormedInstructionsRun : (Instr.link 6 0x8000).wf start.cfg = true ∧
    isOpenCase (.link 6 0x8000) start = false ∧ (Instr.wdebug (.ind 0)).wf start.cfg = true ∧
    isOpenCase (.wdebug (.ind 0)) start = false ∧ (Instr.movec (.d 0) 0x801).wf start.cfg = true ∧
    isOpenCase (.movec (.d 0) 0x801) start = false := by decide

theorem wit_OpenCasesAreRefused : start.sr.s = true ∧ isOpenCase (.movec (.d 0) 0xFFF) start = true ∧
    Ea.isIndOrDisp (.disp 0 2) = true ∧ isOpenCase (.wdebug (.disp 0 2)) start = true := by decide

theorem wit_StepKeepsParameters : ∃ t, step (load [0x7001] start) = .next t := ⟨_, rfl⟩

end Sys2Proof.Tests
end

