-- ==== Sys2Proof/Proofs/Parameters.lean ====
section
/-! The parameters of the chip and the inputs still to come: what no part of an instruction, no
exception and no boundary changes, and what a step consumes (00_scope R5, 10_state R20). Each lemma
`f_keepsParams` says it of the operation `f`; they stand in the order of the model's definitions. -/

namespace Sys2Proof.Machine

/-- The parameters of the chip and the inputs still to come: the part of the state that is not
the core's own. -/
def State.params (s : State) : Config × List EnvInput := (s.cfg, s.env)

/-- A part of an instruction that starts in `s` ends, or raises, with the parameters of `s`. -/
def KeepsParams {α : Type} (s : State) : Eff α → Prop
  | .ok _ t => t.params = s.params
  | .raise _ t => t.params = s.params
  | .refuse _ => True

/-- A result whose next state, if it has one, has the parameters of `s`. -/
def ResultKeepsParams (s : State) : Result → Prop
  | .next t => t.params = s.params
  | .fault _ => True
  | .refused _ => True

/-! ## Composition -/

theorem KeepsParams.of_eq {α : Type} {s t : State} {e : Eff α} (h : KeepsParams t e)
    (hst : t.params = s.params) : KeepsParams s e := by
  cases e with
  | ok v u => exact Eq.trans h hst
  | raise x u => exact Eq.trans h hst
  | refuse r => trivial

theorem ResultKeepsParams.of_eq {s t : State} {r : Result} (h : ResultKeepsParams t r)
    (hst : t.params = s.params) : ResultKeepsParams s r := by
  cases r with
  | next u => exact Eq.trans h hst
  | fault f => trivial
  | refused r => trivial

/-- Parts in sequence: each keeps the parameters of the state it starts in. -/
theorem KeepsParams.andThen {α β : Type} {s : State} {e : Eff α} {k : α → State → Eff β}
    (he : KeepsParams s e) (hk : ∀ a t, KeepsParams t (k a t)) :
    KeepsParams s (e.andThen k) := by
  cases e with
  | ok a t => exact (hk a t).of_eq he
  | raise x t => exact he
  | refuse r => trivial

/-! ## Memory and transfers of control -/

theorem setReg_params (s : State) (r : Reg) (v : Long) : (s.setReg r v).params = s.params := by
  simp [State.params]

theorem readMem_keepsParams (a : Long) (sz : Size) (s : State) :
    KeepsParams s (readMem a sz s) := by
  rw [readMem_eq]
  split
  · split <;> rfl
  · rfl

theorem writeMem_keepsParams (a : Long) (sz : Size) (v : Long) (s : State) :
    KeepsParams s (writeMem a sz v s) := by
  obtain ⟨-, h⟩ | ⟨-, m, st, wb, h, -⟩ := writeMem_cases a sz v s <;> rw [h] <;> rfl

theorem push_keepsParams (v : Long) (s : State) : KeepsParams s (push v s) :=
  (writeMem_keepsParams _ _ _ _).of_eq rfl

theorem checkTarget_keepsParams (t : Long) (s : State) : KeepsParams s (checkTarget t s) := by
  unfold checkTarget
  split <;> rfl

theorem supervisorOnly_keepsParams (s : State) : KeepsParams s (supervisorOnly s) := by
  unfold supervisorOnly
  split <;> rfl

theorem drain_keepsParams (s : State) : KeepsParams s (drain s) := by
  unfold drain
  split <;> rfl

/-! ## Exceptions -/

theorem takeException_params (vector : Byte) (spc : Long) (fs : BitVec 4)
    (level : Option (BitVec 3)) (s : State) :
    (takeException vector spc fs level s).params = s.params := by
  obtain ⟨m, -, -, h⟩ | h := takeException_cases vector spc fs level s <;> rw [h] <;> rfl

theorem addressErrorFs_params (c : AddressCause) (s : State) :
    (addressErrorFs c s).2.params = s.params := by
  unfold addressErrorFs
  split <;> rfl

theorem faultStatus_params (x : Exc) (s : State) : (x.faultStatus s).2.params = s.params := by
  cases x with
  | addressError c => exact addressErrorFs_params c s
  | _ => rfl

theorem raiseExc_params (x : Exc) (s : State) : (raiseExc x s).params = s.params :=
  (takeException_params _ _ _ _ _).trans (faultStatus_params x s)

/-- An instruction keeps the parameters if its parts do, also where it ends in an exception. -/
theorem KeepsParams.finish {s : State} {e : Eff Unit} (h : KeepsParams s e) :
    ResultKeepsParams s (finish e) := by
  cases e with
  | ok v t => exact h
  | raise x t => exact (raiseExc_params x t).trans h
  | refuse r => trivial

/-! ## Operands -/

theorem checkIndex_keepsParams (ea : Ea) (s : State) : KeepsParams s (checkIndex ea s) := by
  unfold checkIndex
  split <;> rfl

theorem resolve_keepsParams (ea : Ea) (sz : Size) (s : State) :
    KeepsParams s (resolve ea sz s) :=
  (checkIndex_keepsParams ea s).andThen fun _ _ => by cases ea <;> rfl

theorem readPlace_keepsParams (p : Place) (sz : Size) (s : State) :
    KeepsParams s (readPlace p sz s) := by
  cases p with
  | mem a => exact readMem_keepsParams a sz s
  | _ => rfl

theorem writePlace_keepsParams (p : Place) (sz : Size) (v : Long) (s : State) :
    KeepsParams s (writePlace p sz v s) := by
  cases p with
  | mem a => exact writeMem_keepsParams a sz v s
  | imm w => trivial
  | _ => rfl

theorem readEa_keepsParams (ea : Ea) (sz : Size) (s : State) : KeepsParams s (readEa ea sz s) :=
  (resolve_keepsParams ea sz s).andThen fun p => readPlace_keepsParams p sz

theorem writeEa_keepsParams (ea : Ea) (sz : Size) (v : Long) (s : State) :
    KeepsParams s (writeEa ea sz v s) :=
  (resolve_keepsParams ea sz s).andThen fun p => writePlace_keepsParams p sz v

theorem modifyEa_keepsParams (ea : Ea) (sz : Size) (f : Long → SR → Long × SR) (s : State) :
    KeepsParams s (modifyEa ea sz f s) :=
  (resolve_keepsParams ea sz s).andThen fun p t =>
    (readPlace_keepsParams p sz t).andThen fun _ u =>
      (writePlace_keepsParams p sz _ u).andThen fun _ _ => rfl

theorem addrEa_keepsParams (ea : Ea) (s : State) : KeepsParams s (addrEa ea s) :=
  (resolve_keepsParams ea .long s).andThen fun p _ => by
    cases p with
    | mem a => rfl
    | _ => trivial

theorem movedValue_params (src dst : Ea) (sz : Size) (v : Long) (s : State) :
    (movedValue src dst sz v s).2.params = s.params := by
  unfold movedValue
  split
  · split <;> rfl
  · split <;> rfl
  · rfl

/-! ## Integer arithmetic and bit manipulation -/

theorem arithToDn_keepsParams (f : Long → Long → Sum) (ea : Ea) (n : RegNum) (i : Instr)
    (s : State) : ResultKeepsParams s (arithToDn f ea n i s) :=
  KeepsParams.finish <| (readEa_keepsParams ea .long s).andThen fun _ _ => rfl

theorem arithToEa_keepsParams (f : Long → Long → Sum) (v : Long) (ea : Ea) (i : Instr)
    (s : State) : ResultKeepsParams s (arithToEa f v ea i s) :=
  KeepsParams.finish <| (modifyEa_keepsParams ea .long _ s).andThen fun _ _ => rfl

theorem arithToAn_keepsParams (f : Long → Long → Long) (ea : Ea) (n : RegNum) (i : Instr)
    (s : State) : ResultKeepsParams s (arithToAn f ea n i s) :=
  KeepsParams.finish <| (readEa_keepsParams ea .long s).andThen fun _ _ => rfl

theorem execAdda_keepsParams (ea : Ea) (n : RegNum) (s : State) :
    ResultKeepsParams s (execAdda ea n s) :=
  arithToAn_keepsParams ..

theorem execSuba_keepsParams (ea : Ea) (n : RegNum) (s : State) :
    ResultKeepsParams s (execSuba ea n s) :=
  arithToAn_keepsParams ..

theorem execAddq_keepsParams (q : BitVec 3) (ea : Ea) (s : State) :
    ResultKeepsParams s (execAddq q ea s) := by
  cases ea with
  | an n => rfl
  | _ => exact arithToEa_keepsParams ..

theorem execSubq_keepsParams (q : BitVec 3) (ea : Ea) (s : State) :
    ResultKeepsParams s (execSubq q ea s) := by
  cases ea with
  | an n => rfl
  | _ => exact arithToEa_keepsParams ..

theorem clear_keepsParams (sz : Size) (ea : Ea) (i : Instr) (s : State) :
    ResultKeepsParams s (clear sz ea i s) :=
  KeepsParams.finish <| (writeEa_keepsParams ea sz 0 s).andThen fun _ _ => rfl

theorem execCmp_keepsParams (ea : Ea) (n : RegNum) (s : State) :
    ResultKeepsParams s (execCmp ea n s) :=
  KeepsParams.finish <| (readEa_keepsParams ea .long s).andThen fun _ _ => rfl

theorem execCmpa_keepsParams (ea : Ea) (n : RegNum) (s : State) :
    ResultKeepsParams s (execCmpa ea n s) :=
  KeepsParams.finish <| (readEa_keepsParams ea .long s).andThen fun _ _ => rfl

theorem multiply_keepsParams (sz : Size) (f : Long → Long → Long) (ea : Ea) (n : RegNum)
    (i : Instr) (s : State) : ResultKeepsParams s (multiply sz f ea n i s) :=
  KeepsParams.finish <| (readEa_keepsParams ea sz s).andThen fun _ _ => rfl

theorem execMulsL_keepsParams (n : RegNum) (ea : Ea) (s : State) :
    ResultKeepsParams s (execMulsL n ea s) :=
  multiply_keepsParams ..

theorem execMuluL_keepsParams (n : RegNum) (ea : Ea) (s : State) :
    ResultKeepsParams s (execMuluL n ea s) :=
  multiply_keepsParams ..

theorem bitTestOf_keepsParams (b : Nat) (ea : Ea) (i : Instr) (s : State) :
    ResultKeepsParams s (bitTestOf b ea i s) :=
  KeepsParams.finish <| (readEa_keepsParams ea (bitSize ea) s).andThen fun _ _ => rfl

theorem bitModify_keepsParams (f : Long → Long → Long) (b : Nat) (ea : Ea) (i : Instr)
    (s : State) : ResultKeepsParams s (bitModify f b ea i s) :=
  KeepsParams.finish <| (modifyEa_keepsParams ea (bitSize ea) _ s).andThen fun _ _ => rfl

/-! ## Data movement and logic -/

theorem moveTo_keepsParams (sz : Size) (src dst : Ea) (i : Instr) (s : State) :
    ResultKeepsParams s (moveTo sz src dst i s) :=
  KeepsParams.finish <| (checkIndex_keepsParams dst s).andThen fun _ t =>
    (readEa_keepsParams src sz t).andThen fun v u =>
      ((writeEa_keepsParams dst sz _ _).of_eq (movedValue_params src dst sz v u)).andThen
        fun _ _ => rfl

theorem moveAddress_keepsParams (sz : Size) (src : Ea) (n : RegNum) (i : Instr) (s : State) :
    ResultKeepsParams s (moveAddress sz src n i s) :=
  KeepsParams.finish <| (readEa_keepsParams src sz s).andThen fun _ _ => rfl

theorem execLea_keepsParams (ea : Ea) (n : RegNum) (s : State) :
    ResultKeepsParams s (execLea ea n s) :=
  KeepsParams.finish <| (addrEa_keepsParams ea s).andThen fun _ _ => rfl

theorem execPea_keepsParams (ea : Ea) (s : State) : ResultKeepsParams s (execPea ea s) :=
  KeepsParams.finish <| (addrEa_keepsParams ea s).andThen fun a t =>
    (push_keepsParams a t).andThen fun _ _ => rfl

theorem storeRegs_keepsParams (rs : List Reg) (a : Long) (s : State) :
    KeepsParams s (storeRegs rs a s) := by
  induction rs generalizing a s with
  | nil => rfl
  | cons r rs ih => exact (writeMem_keepsParams _ _ _ _).andThen fun _ => ih (a + 4)

theorem loadRegs_keepsParams (rs : List Reg) (a : Long) (s : State) :
    KeepsParams s (loadRegs rs a s) := by
  induction rs generalizing a s with
  | nil => rfl
  | cons r rs ih =>
    exact (readMem_keepsParams _ _ _).andThen fun v t =>
      (ih (a + 4) (t.setReg r v)).of_eq (setReg_params t r v)

theorem execMovemStore_keepsParams (mask : Word) (ea : Ea) (s : State) :
    ResultKeepsParams s (execMovemStore mask ea s) :=
  KeepsParams.finish <| (addrEa_keepsParams ea s).andThen fun a t =>
    (storeRegs_keepsParams (selected mask) a t).andThen fun _ _ => rfl

theorem execMovemLoad_keepsParams (mask : Word) (ea : Ea) (s : State) :
    ResultKeepsParams s (execMovemLoad mask ea s) :=
  KeepsParams.finish <| (addrEa_keepsParams ea s).andThen fun a t =>
    (loadRegs_keepsParams (selected mask) a t).andThen fun _ _ => rfl

theorem execLink_keepsParams (n : RegNum) (d16 : Word) (s : State) :
    ResultKeepsParams s (execLink n d16 s) := by
  refine KeepsParams.finish ?_
  split
  · trivial
  · exact (push_keepsParams _ s).andThen fun _ _ => rfl

theorem execUnlk_keepsParams (n : RegNum) (s : State) :
    ResultKeepsParams s (execUnlk n s) := by
  refine KeepsParams.finish ?_
  split
  · trivial
  · exact ((readMem_keepsParams _ _ (s.setSp (s.areg n))).of_eq rfl).andThen fun _ _ => rfl

theorem logicToDn_keepsParams (f : Long → Long → Long) (ea : Ea) (n : RegNum) (i : Instr)
    (s : State) : ResultKeepsParams s (logicToDn f ea n i s) :=
  KeepsParams.finish <| (readEa_keepsParams ea .long s).andThen fun _ _ => rfl

theorem logicToEa_keepsParams (f : Long → Long → Long) (n : RegNum) (ea : Ea) (i : Instr)
    (s : State) : ResultKeepsParams s (logicToEa f n ea i s) :=
  KeepsParams.finish <| (modifyEa_keepsParams ea .long _ s).andThen fun _ _ => rfl

/-! ## Program control -/

theorem branchIf_keepsParams (cond : Cond) (d : Disp) (i : Instr) (s : State) :
    ResultKeepsParams s (branchIf cond d i s) := by
  refine KeepsParams.finish ?_
  split
  · exact (checkTarget_keepsParams _ s).andThen fun _ _ => rfl
  · rfl

theorem execBra_keepsParams (d : Disp) (s : State) : ResultKeepsParams s (execBra d s) :=
  KeepsParams.finish <| (checkTarget_keepsParams _ s).andThen fun _ _ => rfl

theorem callTo_keepsParams (t : Long) (i : Instr) (s : State) : KeepsParams s (callTo t i s) :=
  (checkTarget_keepsParams t s).andThen fun _ u =>
    (push_keepsParams _ u).andThen fun _ _ => rfl

theorem execJmp_keepsParams (ea : Ea) (s : State) : ResultKeepsParams s (execJmp ea s) :=
  KeepsParams.finish <| (addrEa_keepsParams ea s).andThen fun a t =>
    (checkTarget_keepsParams a t).andThen fun _ _ => rfl

theorem execJsr_keepsParams (ea : Ea) (s : State) : ResultKeepsParams s (execJsr ea s) :=
  KeepsParams.finish <| (addrEa_keepsParams ea s).andThen fun a => callTo_keepsParams a (.jsr ea)

theorem execRts_keepsParams (s : State) : ResultKeepsParams s (execRts s) :=
  KeepsParams.finish <| (readMem_keepsParams s.sp .long s).andThen fun a t =>
    (checkTarget_keepsParams a t).andThen fun _ _ => rfl

theorem execNop_keepsParams (s : State) : ResultKeepsParams s (execNop s) :=
  KeepsParams.finish <| (drain_keepsParams s).andThen fun _ _ => rfl

theorem testOperand_keepsParams (sz : Size) (ea : Ea) (i : Instr) (s : State) :
    ResultKeepsParams s (testOperand sz ea i s) :=
  KeepsParams.finish <| (readEa_keepsParams ea sz s).andThen fun _ _ => rfl

/-! ## System control -/

theorem execMoveFromSr_keepsParams (n : RegNum) (s : State) :
    ResultKeepsParams s (execMoveFromSr n s) :=
  KeepsParams.finish <| (supervisorOnly_keepsParams s).andThen fun _ _ => rfl

theorem execMoveToSr_keepsParams (ea : Ea) (s : State) :
    ResultKeepsParams s (execMoveToSr ea s) :=
  KeepsParams.finish <| (supervisorOnly_keepsParams s).andThen fun _ t =>
    (readEa_keepsParams ea .word t).andThen fun _ _ => rfl

theorem execMoveToCcr_keepsParams (ea : Ea) (s : State) :
    ResultKeepsParams s (execMoveToCcr ea s) :=
  KeepsParams.finish <| (readEa_keepsParams ea .word s).andThen fun _ _ => rfl

/-- The platform's answer to a written control register is a memory map and the contents of
memory, never a parameter (log 16). -/
theorem movecEffect_keepsParams (rc : BitVec 12) (v : Long) (s : State) :
    KeepsParams s (movecEffect rc v s) := by
  unfold movecEffect
  split
  · rfl
  · split
    · trivial
    · split
      · rfl
      · split
        · split <;> rfl
        · rfl

theorem execMovec_keepsParams (r : Reg) (rc : BitVec 12) (s : State) :
    ResultKeepsParams s (execMovec r rc s) :=
  KeepsParams.finish <| (supervisorOnly_keepsParams s).andThen fun _ t =>
    (movecEffect_keepsParams rc (t.reg r) t).andThen fun _ _ => rfl

theorem execRte_keepsParams (s : State) : ResultKeepsParams s (execRte s) :=
  KeepsParams.finish <| (supervisorOnly_keepsParams s).andThen fun _ t =>
    (readMem_keepsParams t.sp .long t).andThen fun _ u => by
      split
      · exact (readMem_keepsParams _ _ u).andThen fun w1 w =>
          (checkTarget_keepsParams w1 w).andThen fun _ _ => rfl
      · rfl

theorem execStop_keepsParams (v : Word) (s : State) : ResultKeepsParams s (execStop v s) :=
  KeepsParams.finish <| (supervisorOnly_keepsParams s).andThen fun _ t =>
    (drain_keepsParams t).andThen fun _ _ => by
      dsimp only
      split <;> rfl

theorem execHalt_keepsParams (s : State) : ResultKeepsParams s (execHalt s) :=
  KeepsParams.finish <| (supervisorOnly_keepsParams s).andThen fun _ t =>
    (drain_keepsParams t).andThen fun _ _ => rfl

theorem pulsePrivilege_keepsParams (s : State) : KeepsParams s (pulsePrivilege s) := by
  unfold pulsePrivilege
  split
  · exact supervisorOnly_keepsParams s
  · rfl

theorem execPulse_keepsParams (s : State) : ResultKeepsParams s (execPulse s) :=
  KeepsParams.finish <| (pulsePrivilege_keepsParams s).andThen fun _ _ => rfl

theorem writeDdata_keepsParams (sz : Size) (ea : Ea) (i : Instr) (s : State) :
    ResultKeepsParams s (writeDdata sz ea i s) :=
  KeepsParams.finish <| (pulsePrivilege_keepsParams s).andThen fun _ t =>
    (readEa_keepsParams ea sz t).andThen fun _ _ => rfl

theorem execWdebug_keepsParams (ea : Ea) (s : State) : ResultKeepsParams s (execWdebug ea s) :=
  KeepsParams.finish <| (supervisorOnly_keepsParams s).andThen fun _ t =>
    (addrEa_keepsParams ea t).andThen fun a u => by
      split
      · trivial
      · exact (readMem_keepsParams a .long u).andThen fun _ w =>
          (readMem_keepsParams (a + 4) .long w).andThen fun _ _ => rfl

/-! ## Every instruction -/

/-- No instruction changes the parameters of the chip or the inputs still to come. The cases are
grouped by the shape that gives the instruction its meaning. -/
theorem exec_keepsParams (i : Instr) (s : State) : ResultKeepsParams s (exec i s) := by
  cases i with
  | ori | andi | eori | not | addi | subi | cmpi | neg | negx | addx | subx => rfl
  | extW | extL | extbL | swap | moveq | scc | trapf | trapfW | trapfL => rfl
  | asrImm | asrReg | aslImm | aslReg | lsrImm | lsrReg | lslImm | lslReg | moveFromCcr => rfl
  | btstDyn | btstImm => exact bitTestOf_keepsParams ..
  | bchgDyn | bchgImm | bclrDyn | bclrImm | bsetDyn | bsetImm =>
    exact bitModify_keepsParams ..
  | moveB | moveW | moveL => exact moveTo_keepsParams ..
  | moveaW | moveaL => exact moveAddress_keepsParams ..
  | clrB | clrW | clrL => exact clear_keepsParams ..
  | tstB | tstW | tstL => exact testOperand_keepsParams ..
  | mulsW | muluW => exact multiply_keepsParams ..
  | mulsL => exact execMulsL_keepsParams ..
  | muluL => exact execMuluL_keepsParams ..
  | addToDn | subToDn => exact arithToDn_keepsParams ..
  | addToEa | subToEa => exact arithToEa_keepsParams ..
  | adda => exact execAdda_keepsParams ..
  | suba => exact execSuba_keepsParams ..
  | addq => exact execAddq_keepsParams ..
  | subq => exact execSubq_keepsParams ..
  | cmp => exact execCmp_keepsParams ..
  | cmpa => exact execCmpa_keepsParams ..
  | orToDn | andToDn => exact logicToDn_keepsParams ..
  | orToEa | andToEa | eor => exact logicToEa_keepsParams ..
  | bhi | bls | bcc | bcs | bne | beq | bvc | bvs | bpl | bmi | bge | blt | bgt | ble =>
    exact branchIf_keepsParams ..
  | bra => exact execBra_keepsParams ..
  | bsr => exact (callTo_keepsParams ..).finish
  | jmp => exact execJmp_keepsParams ..
  | jsr => exact execJsr_keepsParams ..
  | rts => exact execRts_keepsParams s
  | lea => exact execLea_keepsParams ..
  | pea => exact execPea_keepsParams ..
  | movemStore => exact execMovemStore_keepsParams ..
  | movemLoad => exact execMovemLoad_keepsParams ..
  | link => exact execLink_keepsParams ..
  | unlk => exact execUnlk_keepsParams ..
  | nop => exact execNop_keepsParams s
  | moveFromSr => exact execMoveFromSr_keepsParams ..
  | moveToSr => exact execMoveToSr_keepsParams ..
  | moveToCcr => exact execMoveToCcr_keepsParams ..
  | movec => exact execMovec_keepsParams ..
  | rte => exact execRte_keepsParams s
  | stop => exact execStop_keepsParams ..
  | halt => exact execHalt_keepsParams s
  | pulse => exact execPulse_keepsParams s
  | wddataB | wddataW | wddataL => exact writeDdata_keepsParams ..
  | wdebug => exact execWdebug_keepsParams ..
  | trap | illegal4AFC | illegal0000 | lineA | lineF => exact raiseExc_params ..

/-! ## Fetching -/

theorem fetchWord_keepsParams (a : Long) (s : State) : KeepsParams s (fetchWord a s) := by
  unfold fetchWord
  split
  · split <;> rfl
  · rfl

theorem fetchWords_keepsParams (n : Nat) (a : Long) (s : State) :
    KeepsParams s (fetchWords n a s) := by
  induction n generalizing a s with
  | zero => rfl
  | succ n ih =>
    exact (fetchWord_keepsParams a s).andThen fun _ t =>
      (ih (a + 2) t).andThen fun _ _ => rfl

theorem fetchInstr_keepsParams (s : State) : KeepsParams s (fetchInstr s) :=
  (fetchWord_keepsParams s.pc s).andThen fun _ t => by
    split
    · rfl
    · exact (fetchWords_keepsParams _ _ t).andThen fun _ _ => by split <;> rfl

theorem rejected_keepsParams (r : Reject) (s : State) : ResultKeepsParams s (rejected r s) := by
  unfold rejected
  split
  · split
    · exact raiseExc_params .illegal s
    · trivial
  · trivial
  · split
    · trivial
    · exact raiseExc_params .privilege s
  · trivial
  · trivial

/-- Fetch, decode and execute: the fetch keeps the parameters, and so does what is made of the
words fetched. -/
theorem runInstr_keepsParams (s : State) : ResultKeepsParams s (runInstr s) := by
  have hfetch := fetchInstr_keepsParams (beginInstr s)
  unfold runInstr
  generalize fetchInstr (beginInstr s) = fetched at hfetch ⊢
  match fetched with
  | .raise x t => exact (raiseExc_params x t).trans hfetch
  | .refuse r => trivial
  | .ok (.error r) t => exact (rejected_keepsParams r t).of_eq hfetch
  | .ok (.ok i) t => exact (exec_keepsParams i t).of_eq hfetch

/-! ## The boundary, reset and the step -/

theorem takeInterrupt_params (level : BitVec 3) (ack : Iack) (s : State) :
    (takeInterrupt level ack s).params = s.params :=
  takeException_params ..

theorem sampleInterrupts_params (inp : EnvInput) (s : State) :
    (sampleInterrupts inp s).params = s.params := by
  unfold sampleInterrupts
  dsimp only
  split
  · exact takeInterrupt_params ..
  · rfl

theorem boundary_params (inp : EnvInput) (s : State) : (boundary inp s).params = s.params := by
  unfold boundary
  split
  · rfl
  · split
    · exact takeException_params ..
    · split
      · exact takeException_params ..
      · exact sampleInterrupts_params inp s

theorem afterInstr_keepsParams (inp : EnvInput) {s : State} {r : Result}
    (h : ResultKeepsParams s r) : ResultKeepsParams s (afterInstr inp r) := by
  cases r with
  | next t => exact (boundary_params inp t).trans h
  | fault f => trivial
  | refused r => trivial

/-- Reset gives the registers their values and leaves the chip and its surroundings. -/
theorem takeReset_params (level : BitVec 3) (s : State) :
    (takeReset level s).params = s.params := by
  unfold takeReset
  dsimp only
  split <;> rfl

theorem signalledError_params {inp : EnvInput} {s t : State} {p : PendingWrite}
    (h : signalledError inp s = some (t, p)) : t.params = s.params := by
  unfold signalledError at h
  split at h
  · split at h
    · cases h
    · cases h; rfl
  · cases h

theorem runOrReport_keepsParams (inp : EnvInput) (s : State) :
    ResultKeepsParams s (runOrReport inp s) := by
  unfold runOrReport
  split
  · next t p h => exact (raiseExc_params _ t).trans (signalledError_params h)
  · exact runInstr_keepsParams s

theorem advanceMachine_keepsParams (inp : EnvInput) (s : State) :
    ResultKeepsParams s (advanceMachine inp s) := by
  unfold advanceMachine
  split
  · exact afterInstr_keepsParams inp (runOrReport_keepsParams inp s)
  · exact boundary_params inp s
  · split
    · exact boundary_params ..
    · rfl
  · rfl

/-- A step takes its input, and changes the parameters and inputs in no other way. -/
theorem step_keepsParams (s : State) : ResultKeepsParams (takeInput s) (step s) := by
  unfold step cycle
  split
  · exact takeReset_params ..
  · exact advanceMachine_keepsParams ..

theorem takeInput_params (s : State) : (takeInput s).params = (s.cfg, s.env.tail) := rfl

/-- Settles O60: after `takeInput`, which drops the first input, every operation of the step keeps
the parameters and the inputs. -/
theorem stepKeepsParameters : Obligations.StepKeepsParameters := by
  intro s t hstep
  have h := step_keepsParams s
  rw [hstep] at h
  have ht : t.params = (s.cfg, s.env.tail) := Eq.trans h (takeInput_params s)
  exact Prod.ext_iff.mp ht

end Sys2Proof.Machine
end

/-! User mode is confined: no part of an unprivileged instruction changes what only supervisor mode
may change, and every privileged one ends in an exception (10_state R27, 46_system_control R360,
60_exceptions R410). -/

namespace Sys2Proof.Machine

/-! ## What user mode leaves alone -/

/-- The system byte of the status register (10_state R27). -/
def SR.system (sr : SR) : Bool × Bool × Bool × BitVec 3 := (sr.t, sr.s, sr.m, sr.i)

/-- The part of the state that only supervisor mode may change. -/
def State.guarded (s : State) :
    BitVec 12 × ControlRegs × MemoryMap × (Bool × Bool × Bool × BitVec 3) :=
  (s.vbr, s.ctrl, s.memoryMap, s.sr.system)

theorem guarded_eq_iff (s t : State) : t.guarded = s.guarded ↔ sameProtected s t := by
  simp [State.guarded, SR.system, sameProtected]

/-- A part of an instruction that starts in `s` ends, or raises, with the guarded state of `s`. -/
def KeepsGuarded {α : Type} (s : State) : Eff α → Prop
  | .ok _ t => t.guarded = s.guarded
  | .raise _ t => t.guarded = s.guarded
  | .refuse _ => True

theorem KeepsGuarded.of_eq {α : Type} {s t : State} {e : Eff α} (h : KeepsGuarded t e)
    (hst : t.guarded = s.guarded) : KeepsGuarded s e := by
  cases e with
  | ok v u => exact Eq.trans h hst
  | raise x u => exact Eq.trans h hst
  | refuse r => trivial

theorem KeepsGuarded.andThen {α β : Type} {s : State} {e : Eff α} {k : α → State → Eff β}
    (he : KeepsGuarded s e) (hk : ∀ a t, KeepsGuarded t (k a t)) :
    KeepsGuarded s (e.andThen k) := by
  cases e with
  | ok a t => exact (hk a t).of_eq he
  | raise x t => exact he
  | refuse r => trivial

/-! ## Memory, transfers of control and privilege -/

theorem setReg_guarded (s : State) (r : Reg) (v : Long) :
    (s.setReg r v).guarded = s.guarded := by
  simp [State.guarded]

theorem readMem_keepsGuarded (a : Long) (sz : Size) (s : State) :
    KeepsGuarded s (readMem a sz s) := by
  rw [readMem_eq]
  split
  · split <;> rfl
  · rfl

theorem writeMem_keepsGuarded (a : Long) (sz : Size) (v : Long) (s : State) :
    KeepsGuarded s (writeMem a sz v s) := by
  obtain ⟨-, h⟩ | ⟨-, m, st, wb, h, -⟩ := writeMem_cases a sz v s <;> rw [h] <;> rfl

theorem push_keepsGuarded (v : Long) (s : State) : KeepsGuarded s (push v s) :=
  (writeMem_keepsGuarded _ _ _ _).of_eq rfl

theorem checkTarget_keepsGuarded (t : Long) (s : State) : KeepsGuarded s (checkTarget t s) := by
  unfold checkTarget
  split <;> rfl

theorem drain_keepsGuarded (s : State) : KeepsGuarded s (drain s) := by
  unfold drain
  split <;> rfl

/-- In user mode the privilege check ends the instruction (46_system_control R360). -/
theorem supervisorOnly_user {s : State} (hu : s.sr.s = false) :
    supervisorOnly s = .raise .privilege s := by
  simp [supervisorOnly, hu]

theorem pulsePrivilege_keepsGuarded (s : State) : KeepsGuarded s (pulsePrivilege s) := by
  unfold pulsePrivilege supervisorOnly
  split
  · split <;> rfl
  · rfl

/-! ## Operands -/

theorem checkIndex_keepsGuarded (ea : Ea) (s : State) : KeepsGuarded s (checkIndex ea s) := by
  unfold checkIndex
  split <;> rfl

theorem resolve_keepsGuarded (ea : Ea) (sz : Size) (s : State) :
    KeepsGuarded s (resolve ea sz s) :=
  (checkIndex_keepsGuarded ea s).andThen fun _ _ => by cases ea <;> rfl

theorem readPlace_keepsGuarded (p : Place) (sz : Size) (s : State) :
    KeepsGuarded s (readPlace p sz s) := by
  cases p with
  | mem a => exact readMem_keepsGuarded a sz s
  | _ => rfl

theorem writePlace_keepsGuarded (p : Place) (sz : Size) (v : Long) (s : State) :
    KeepsGuarded s (writePlace p sz v s) := by
  cases p with
  | mem a => exact writeMem_keepsGuarded a sz v s
  | imm w => trivial
  | _ => rfl

theorem readEa_keepsGuarded (ea : Ea) (sz : Size) (s : State) :
    KeepsGuarded s (readEa ea sz s) :=
  (resolve_keepsGuarded ea sz s).andThen fun p => readPlace_keepsGuarded p sz

theorem writeEa_keepsGuarded (ea : Ea) (sz : Size) (v : Long) (s : State) :
    KeepsGuarded s (writeEa ea sz v s) :=
  (resolve_keepsGuarded ea sz s).andThen fun p => writePlace_keepsGuarded p sz v

/-- A read-modify-write keeps the guarded state if its flags leave the system byte. -/
theorem modifyEa_keepsGuarded (ea : Ea) (sz : Size) {f : Long → SR → Long × SR} (s : State)
    (hf : ∀ v sr, (f v sr).2.system = sr.system) : KeepsGuarded s (modifyEa ea sz f s) :=
  (resolve_keepsGuarded ea sz s).andThen fun p t =>
    (readPlace_keepsGuarded p sz t).andThen fun v u =>
      (writePlace_keepsGuarded p sz _ u).andThen fun _ w => by
        simp [KeepsGuarded, State.guarded, hf v w.sr]

theorem addrEa_keepsGuarded (ea : Ea) (s : State) : KeepsGuarded s (addrEa ea s) :=
  (resolve_keepsGuarded ea .long s).andThen fun p _ => by
    cases p with
    | mem a => rfl
    | _ => trivial

theorem movedValue_guarded (src dst : Ea) (sz : Size) (v : Long) (s : State) :
    (movedValue src dst sz v s).2.guarded = s.guarded := by
  unfold movedValue
  split
  · split <;> rfl
  · split <;> rfl
  · rfl

theorem storeRegs_keepsGuarded (rs : List Reg) (a : Long) (s : State) :
    KeepsGuarded s (storeRegs rs a s) := by
  induction rs generalizing a s with
  | nil => rfl
  | cons r rs ih => exact (writeMem_keepsGuarded _ _ _ _).andThen fun _ => ih (a + 4)

theorem loadRegs_keepsGuarded (rs : List Reg) (a : Long) (s : State) :
    KeepsGuarded s (loadRegs rs a s) := by
  induction rs generalizing a s with
  | nil => rfl
  | cons r rs ih =>
    exact (readMem_keepsGuarded _ _ _).andThen fun v t =>
      (ih (a + 4) (t.setReg r v)).of_eq (setReg_guarded t r v)

theorem callTo_keepsGuarded (t : Long) (i : Instr) (s : State) :
    KeepsGuarded s (callTo t i s) :=
  (checkTarget_keepsGuarded t s).andThen fun _ u =>
    (push_keepsGuarded _ u).andThen fun _ _ => rfl

/-! ## Exceptions -/

/-- Exception entry from `s`: supervisor mode, no tracing, interrupts inhibited, the handler read
from the vector table of `s`, and the rest of the guarded state as it was (60_exceptions R410). -/
structure EnteredHandler (s t : State) : Prop where
  supervisor : t.sr.s = true
  untraced : t.sr.t = false
  traceTaken : t.tracePending = false
  inhibited : t.irqInhibit = true
  vbr : t.vbr = s.vbr
  ctrl : t.ctrl = s.ctrl
  memoryMap : t.memoryMap = s.memoryMap
  handler : ∃ vector, t.pc = t.mem.read (vectorSlot vector s) .long

/-- What may become of a machine in user mode. -/
inductive Confined (s t : State) : Prop where
  | kept (h : t.guarded = s.guarded)
  | entered (h : EnteredHandler s t)
  | halted (h : t.run = .haltedFault)

theorem vectorSlot_congr {s t : State} (h : t.vbr = s.vbr) (vector : Byte) :
    vectorSlot vector t = vectorSlot vector s := by
  rw [vectorSlot, vectorSlot, h]

theorem EnteredHandler.of_eq {s t u : State} (h : EnteredHandler t u)
    (hst : t.guarded = s.guarded) : EnteredHandler s u := by
  obtain ⟨hvbr, hctrl, hmap, -⟩ := (guarded_eq_iff s t).mp hst
  obtain ⟨vector, hpc⟩ := h.handler
  exact { h with
    vbr := h.vbr.trans hvbr
    ctrl := h.ctrl.trans hctrl
    memoryMap := h.memoryMap.trans hmap
    handler := ⟨vector, by rw [hpc, vectorSlot_congr hvbr]⟩ }

theorem Confined.of_eq {s t u : State} (h : Confined t u) (hst : t.guarded = s.guarded) :
    Confined s u := by
  cases h with
  | kept h => exact .kept (h.trans hst)
  | entered h => exact .entered (h.of_eq hst)
  | halted h => exact .halted h

theorem enter_s (sr : SR) (clearM : Bool) (level : Option (BitVec 3)) :
    (sr.enter clearM level).s = true := by
  cases level <;> rfl

theorem enter_t (sr : SR) (clearM : Bool) (level : Option (BitVec 3)) :
    (sr.enter clearM level).t = false := by
  cases level <;> rfl

theorem takeException_confined (vector : Byte) (spc : Long) (fs : BitVec 4)
    (level : Option (BitVec 3)) (s : State) :
    Confined s (takeException vector spc fs level s) := by
  obtain ⟨m, -, -, h⟩ | h := takeException_cases vector spc fs level s <;> rw [h]
  · exact .entered ⟨enter_s .., enter_t .., rfl, rfl, rfl, rfl, rfl, vector, rfl⟩
  · exact .halted rfl

theorem faultStatus_guarded (x : Exc) (s : State) :
    (x.faultStatus s).2.guarded = s.guarded := by
  cases x with
  | addressError c =>
    simp only [Exc.faultStatus, addressErrorFs]
    split <;> rfl
  | _ => rfl

theorem raiseExc_confined (x : Exc) (s : State) : Confined s (raiseExc x s) :=
  (takeException_confined ..).of_eq (faultStatus_guarded x s)

/-! ## Results -/

/-- The next state, if there is one, is confined. -/
def ResultConfined (s : State) : Result → Prop
  | .next t => Confined s t
  | .fault _ => True
  | .refused _ => True

theorem resultConfined_next {s t : State} (h : t.guarded = s.guarded) :
    ResultConfined s (.next t) := .kept h

theorem ResultConfined.of_eq {s t : State} {r : Result} (h : ResultConfined t r)
    (hst : t.guarded = s.guarded) : ResultConfined s r := by
  cases r with
  | next u => exact Confined.of_eq h hst
  | fault f => trivial
  | refused r => trivial

theorem KeepsGuarded.finish {s : State} {e : Eff Unit} (h : KeepsGuarded s e) :
    ResultConfined s (finish e) := by
  cases e with
  | ok v t => exact .kept h
  | raise x t => exact (raiseExc_confined x t).of_eq h
  | refuse r => trivial

theorem supervisorOnly_confined {s : State} (hu : s.sr.s = false)
    (k : Unit → State → Eff Unit) : ResultConfined s (finish ((supervisorOnly s).andThen k)) := by
  rw [supervisorOnly_user hu]
  exact raiseExc_confined .privilege s

/-! ## The shapes of instructions -/

/-- An instruction that reads an operand and then updates registers and flags. -/
theorem readEa_confined (ea : Ea) (sz : Size) (s : State) {g : Long → State → State}
    (hg : ∀ v t, (g v t).guarded = t.guarded) :
    ResultConfined s (finish ((readEa ea sz s).andThen fun v t => .ok () (g v t))) :=
  KeepsGuarded.finish <| (readEa_keepsGuarded ea sz s).andThen hg

/-- An instruction that reads and writes one operand. -/
theorem modifyEa_confined (ea : Ea) (sz : Size) (i : Instr) (s : State)
    {f : Long → SR → Long × SR} (hf : ∀ v sr, (f v sr).2.system = sr.system) :
    ResultConfined s
      (finish ((modifyEa ea sz f s).andThen fun _ t => .ok () (t.advance i))) :=
  KeepsGuarded.finish <| (modifyEa_keepsGuarded ea sz s hf).andThen fun _ _ => rfl

theorem arithToEa_confined (f : Long → Long → Sum) (v : Long) (ea : Ea) (i : Instr) (s : State) :
    ResultConfined s (arithToEa f v ea i s) :=
  modifyEa_confined ea .long i s fun _ _ => rfl

theorem execAddq_confined (q : BitVec 3) (ea : Ea) (s : State) :
    ResultConfined s (execAddq q ea s) := by
  cases ea with
  | an n => exact resultConfined_next rfl
  | _ => exact arithToEa_confined ..

theorem execSubq_confined (q : BitVec 3) (ea : Ea) (s : State) :
    ResultConfined s (execSubq q ea s) := by
  cases ea with
  | an n => exact resultConfined_next rfl
  | _ => exact arithToEa_confined ..

theorem clear_confined (sz : Size) (ea : Ea) (i : Instr) (s : State) :
    ResultConfined s (clear sz ea i s) :=
  KeepsGuarded.finish <| (writeEa_keepsGuarded ea sz 0 s).andThen fun _ _ => rfl

theorem moveTo_confined (sz : Size) (src dst : Ea) (i : Instr) (s : State) :
    ResultConfined s (moveTo sz src dst i s) :=
  KeepsGuarded.finish <| (checkIndex_keepsGuarded dst s).andThen fun _ t =>
    (readEa_keepsGuarded src sz t).andThen fun v u =>
      ((writeEa_keepsGuarded dst sz _ _).of_eq (movedValue_guarded src dst sz v u)).andThen
        fun _ _ => rfl

theorem execPea_confined (ea : Ea) (s : State) : ResultConfined s (execPea ea s) :=
  KeepsGuarded.finish <| (addrEa_keepsGuarded ea s).andThen fun a t =>
    (push_keepsGuarded a t).andThen fun _ _ => rfl

theorem execMovemStore_confined (mask : Word) (ea : Ea) (s : State) :
    ResultConfined s (execMovemStore mask ea s) :=
  KeepsGuarded.finish <| (addrEa_keepsGuarded ea s).andThen fun a t =>
    (storeRegs_keepsGuarded (selected mask) a t).andThen fun _ _ => rfl

theorem execMovemLoad_confined (mask : Word) (ea : Ea) (s : State) :
    ResultConfined s (execMovemLoad mask ea s) :=
  KeepsGuarded.finish <| (addrEa_keepsGuarded ea s).andThen fun a t =>
    (loadRegs_keepsGuarded (selected mask) a t).andThen fun _ _ => rfl

theorem execLink_confined (n : RegNum) (d16 : Word) (s : State) :
    ResultConfined s (execLink n d16 s) := by
  refine KeepsGuarded.finish ?_
  split
  · trivial
  · exact (push_keepsGuarded _ s).andThen fun _ _ => rfl

theorem execUnlk_confined (n : RegNum) (s : State) : ResultConfined s (execUnlk n s) := by
  refine KeepsGuarded.finish ?_
  split
  · trivial
  · exact ((readMem_keepsGuarded _ _ (s.setSp (s.areg n))).of_eq rfl).andThen fun _ _ => rfl

theorem branchIf_confined (cond : Cond) (d : Disp) (i : Instr) (s : State) :
    ResultConfined s (branchIf cond d i s) := by
  refine KeepsGuarded.finish ?_
  split
  · exact (checkTarget_keepsGuarded _ s).andThen fun _ _ => rfl
  · rfl

theorem execBra_confined (d : Disp) (s : State) : ResultConfined s (execBra d s) :=
  KeepsGuarded.finish <| (checkTarget_keepsGuarded _ s).andThen fun _ _ => rfl

theorem execLea_confined (ea : Ea) (n : RegNum) (s : State) :
    ResultConfined s (execLea ea n s) :=
  KeepsGuarded.finish <| (addrEa_keepsGuarded ea s).andThen fun _ _ => rfl

theorem execJmp_confined (ea : Ea) (s : State) : ResultConfined s (execJmp ea s) :=
  KeepsGuarded.finish <| (addrEa_keepsGuarded ea s).andThen fun a t =>
    (checkTarget_keepsGuarded a t).andThen fun _ _ => rfl

theorem execJsr_confined (ea : Ea) (s : State) : ResultConfined s (execJsr ea s) :=
  ((addrEa_keepsGuarded ea s).andThen fun a => callTo_keepsGuarded a (.jsr ea)).finish

theorem execRts_confined (s : State) : ResultConfined s (execRts s) :=
  KeepsGuarded.finish <| (readMem_keepsGuarded s.sp .long s).andThen fun a t =>
    (checkTarget_keepsGuarded a t).andThen fun _ _ => rfl

theorem execNop_confined (s : State) : ResultConfined s (execNop s) :=
  KeepsGuarded.finish <| (drain_keepsGuarded s).andThen fun _ _ => rfl

theorem execPulse_confined (s : State) : ResultConfined s (execPulse s) :=
  KeepsGuarded.finish <| (pulsePrivilege_keepsGuarded s).andThen fun _ _ => rfl

theorem writeDdata_confined (sz : Size) (ea : Ea) (i : Instr) (s : State) :
    ResultConfined s (writeDdata sz ea i s) :=
  KeepsGuarded.finish <| (pulsePrivilege_keepsGuarded s).andThen fun _ t =>
    (readEa_keepsGuarded ea sz t).andThen fun _ _ => rfl

/-! ## Every instruction -/

/-- Every instruction run in user mode is confined. The cases are grouped by the shape that gives
the instruction its meaning; the privileged ones share one (46_system_control R360). -/
theorem exec_confined (i : Instr) {s : State} (hu : s.sr.s = false) :
    ResultConfined s (exec i s) := by
  cases i with
  | moveFromSr | moveToSr | movec | rte | stop | halt | wdebug =>
    exact supervisorOnly_confined hu _
  | trap | illegal4AFC | illegal0000 | lineA | lineF => exact raiseExc_confined ..
  | ori | andi | eori | not | addi | subi | cmpi | neg | negx | addx | subx =>
    exact resultConfined_next rfl
  | extW | extL | extbL | swap | moveq | scc | trapf | trapfW | trapfL =>
    exact resultConfined_next rfl
  | asrImm | asrReg | aslImm | aslReg | lsrImm | lsrReg | lslImm | lslReg | moveFromCcr =>
    exact resultConfined_next rfl
  | btstDyn | btstImm | moveaW | moveaL | tstB | tstW | tstL | moveToCcr =>
    exact readEa_confined _ _ s fun _ _ => rfl
  | mulsW | muluW | mulsL | muluL | addToDn | subToDn | adda | suba =>
    exact readEa_confined _ _ s fun _ _ => rfl
  | cmp | cmpa | orToDn | andToDn => exact readEa_confined _ _ s fun _ _ => rfl
  | bchgDyn | bchgImm | bclrDyn | bclrImm | bsetDyn | bsetImm =>
    exact modifyEa_confined _ _ _ s fun _ _ => rfl
  | addToEa | subToEa => exact arithToEa_confined ..
  | orToEa | andToEa | eor => exact modifyEa_confined _ _ _ s fun _ _ => rfl
  | addq => exact execAddq_confined ..
  | subq => exact execSubq_confined ..
  | clrB | clrW | clrL => exact clear_confined ..
  | moveB | moveW | moveL => exact moveTo_confined ..
  | lea => exact execLea_confined ..
  | pea => exact execPea_confined ..
  | movemStore => exact execMovemStore_confined ..
  | movemLoad => exact execMovemLoad_confined ..
  | link => exact execLink_confined ..
  | unlk => exact execUnlk_confined ..
  | bhi | bls | bcc | bcs | bne | beq | bvc | bvs | bpl | bmi | bge | blt | bgt | ble =>
    exact branchIf_confined ..
  | bra => exact execBra_confined ..
  | bsr => exact (callTo_keepsGuarded ..).finish
  | jmp => exact execJmp_confined ..
  | jsr => exact execJsr_confined ..
  | rts => exact execRts_confined s
  | nop => exact execNop_confined s
  | pulse => exact execPulse_confined s
  | wddataB | wddataW | wddataL => exact writeDdata_confined ..

/-! ## Fetching -/

theorem fetchWord_keepsGuarded (a : Long) (s : State) : KeepsGuarded s (fetchWord a s) := by
  unfold fetchWord
  split
  · split <;> rfl
  · rfl

theorem fetchWords_keepsGuarded (n : Nat) (a : Long) (s : State) :
    KeepsGuarded s (fetchWords n a s) := by
  induction n generalizing a s with
  | zero => rfl
  | succ n ih =>
    exact (fetchWord_keepsGuarded a s).andThen fun _ t =>
      (ih (a + 2) t).andThen fun _ _ => rfl

theorem fetchInstr_keepsGuarded (s : State) : KeepsGuarded s (fetchInstr s) :=
  (fetchWord_keepsGuarded s.pc s).andThen fun _ t => by
    split
    · rfl
    · exact (fetchWords_keepsGuarded _ _ t).andThen fun _ _ => by split <;> rfl

theorem rejected_confined (r : Reject) (s : State) : ResultConfined s (rejected r s) := by
  unfold rejected
  split
  · split
    · exact raiseExc_confined .illegal s
    · trivial
  · trivial
  · split
    · trivial
    · exact raiseExc_confined .privilege s
  · trivial
  · trivial

/-- Fetching does not leave user mode, so the instruction fetched is confined. -/
theorem runInstr_confined {s : State} (hu : s.sr.s = false) : ResultConfined s (runInstr s) := by
  have hfetch := fetchInstr_keepsGuarded (beginInstr s)
  unfold runInstr
  generalize fetchInstr (beginInstr s) = fetched at hfetch ⊢
  match fetched with
  | .raise x t => exact (raiseExc_confined x t).of_eq hfetch
  | .refuse r => trivial
  | .ok (.error r) t => exact (rejected_confined r t).of_eq hfetch
  | .ok (.ok i) t =>
    obtain ⟨-, -, -, -, hs, -⟩ := (guarded_eq_iff (beginInstr s) t).mp hfetch
    exact (exec_confined i (hs.trans hu)).of_eq hfetch

/-! ## The boundary and the step -/

theorem sampleInterrupts_confined (inp : EnvInput) (s : State) :
    Confined s (sampleInterrupts inp s) := by
  unfold sampleInterrupts
  dsimp only
  split
  · exact (takeException_confined ..).of_eq rfl
  · exact .kept rfl

theorem boundary_confined (inp : EnvInput) (s : State) : Confined s (boundary inp s) := by
  unfold boundary
  split
  · exact .kept rfl
  · split
    · exact takeException_confined ..
    · split
      · exact (takeException_confined ..).of_eq rfl
      · exact sampleInterrupts_confined inp s

theorem boundary_halted (inp : EnvInput) {s : State} (h : s.run = .haltedFault) :
    boundary inp s = s := by
  simp [boundary, h]

/-- After exception entry the boundary takes nothing more: it only keeps the level that it saw
(60_exceptions R444). -/
theorem boundary_entered (inp : EnvInput) {s t : State} (h : EnteredHandler s t) :
    boundary inp t = t ∨ boundary inp t = latchLevel inp.irqLevel t := by
  have hsample : recognised inp.irqLevel (latchLevel inp.irqLevel t) = none := by
    simp [recognised, latchLevel, h.inhibited]
  by_cases hr : t.run = .haltedFault ∨ t.run = .haltedByInstruction
  · exact .inl (by simp [boundary, hr])
  · exact .inr (by simp [boundary, hr, h.traceTaken, h.inhibited, sampleInterrupts, hsample])

/-- The boundary after an instruction is confined with it. -/
theorem Confined.boundary (inp : EnvInput) {s t : State} (h : Confined s t) :
    Confined s (boundary inp t) := by
  cases h with
  | kept h => exact (boundary_confined inp t).of_eq h
  | entered h =>
    obtain hb | hb := boundary_entered inp h <;> rw [hb]
    · exact .entered h
    · exact .entered { h with }
  | halted h => exact .halted (by rw [boundary_halted inp h, h])

theorem signalledError_guarded {inp : EnvInput} {s t : State} {p : PendingWrite}
    (h : signalledError inp s = some (t, p)) : t.guarded = s.guarded := by
  unfold signalledError at h
  split at h
  · split at h
    · cases h
    · cases h; rfl
  · cases h

theorem runOrReport_confined (inp : EnvInput) {s : State} (hu : s.sr.s = false) :
    ResultConfined s (runOrReport inp s) := by
  unfold runOrReport
  split
  · next t p h => exact (raiseExc_confined _ t).of_eq (signalledError_guarded h)
  · exact runInstr_confined hu

theorem afterInstr_confined (inp : EnvInput) {s : State} {r : Result}
    (h : ResultConfined s r) : ResultConfined s (afterInstr inp r) := by
  cases r with
  | next t => exact Confined.boundary inp h
  | fault f => trivial
  | refused r => trivial

/-- A step of a running machine in user mode is confined. -/
theorem step_confined {s : State} (hrun : s.run = .running) (hreset : s.input.reset = false)
    (hu : s.sr.s = false) : ResultConfined s (step s) := by
  have hstep : step s = afterInstr s.input (runOrReport s.input (takeInput s)) := by
    simp [step, cycle, hreset, advanceMachine, takeInput, hrun]
  rw [hstep]
  exact (afterInstr_confined _ (runOrReport_confined _ (s := takeInput s) hu)).of_eq rfl

/-- Settles O57: the next state keeps the guarded state, or is that of exception entry, or is the
fault-on-fault halt. -/
theorem userModeIsConfined : Obligations.UserModeIsConfined := by
  intro s t hrun hreset hu hstep hhalt
  have h : ResultConfined s (step s) := step_confined hrun hreset hu
  rw [hstep] at h
  cases h with
  | kept h => exact .inl ((guarded_eq_iff s t).mp h)
  | entered h =>
    exact .inr ⟨h.supervisor, h.untraced, h.inhibited, h.vbr, h.ctrl, h.memoryMap, h.handler⟩
  | halted h => exact absurd h hhalt

end Sys2Proof.Machine

/-! The status register as a word, and the conditional tests on it (10_state R27 to R33). -/

namespace Sys2Proof.Machine

/-! ## The status register as a word -/

/-- The bits of SR as a word: every implemented bit is its field, every other one reads as 0
(10_state R28, R29). -/
theorem getLsbD_toWord (sr : SR) (k : Nat) :
    sr.toWord.getLsbD k = match k with
      | 0 => sr.c | 1 => sr.v | 2 => sr.z | 3 => sr.n | 4 => sr.x
      | 8 => sr.i.getLsbD 0 | 9 => sr.i.getLsbD 1 | 10 => sr.i.getLsbD 2
      | 12 => sr.m | 13 => sr.s | 15 => sr.t
      | _ => false := by
  by_cases hk : k < 16
  · simp only [SR.toWord, BitVec.getLsbD_append]
    interval_cases k <;> simp
  · obtain ⟨j, rfl⟩ := Nat.exists_eq_add_of_le' (not_lt.mp hk)
    simp

/-- SR read and written back is as it was (10_state R29). -/
theorem ofWord_toWord (sr : SR) : SR.ofWord sr.toWord = sr := by
  have hi : sr.toWord.extractLsb' 8 3 = sr.i := by
    apply BitVec.eq_of_getLsbD_eq
    intro k hk
    rw [BitVec.getLsbD_extractLsb', getLsbD_toWord]
    interval_cases k <;> simp
  simp only [SR.ofWord, getLsbD_toWord, hi]

/-- Writing a word keeps its implemented bits, the mask `$B71F` (10_state R29, D1). -/
theorem toWord_ofWord (w : Word) : (SR.ofWord w).toWord = w &&& 0xB71F := by
  apply BitVec.eq_of_getLsbD_eq
  intro k hk
  rw [getLsbD_toWord, BitVec.getLsbD_and]
  simp only [SR.ofWord, BitVec.getLsbD_extractLsb']
  interval_cases k <;> simp

theorem toNat_toWord (sr : SR) :
    sr.toWord.toNat = sr.t.toNat * 2 ^ 15 + sr.s.toNat * 2 ^ 13 + sr.m.toNat * 2 ^ 12
      + sr.i.toNat * 2 ^ 8 + sr.x.toNat * 2 ^ 4 + sr.n.toNat * 2 ^ 3 + sr.z.toNat * 2 ^ 2
      + sr.v.toNat * 2 + sr.c.toNat := by
  simp only [SR.toWord, append_toNat, BitVec.toNat_ofBool, BitVec.toNat_ofNat]
  omega

/-- CCR is the low five bits of SR (10_state R29). -/
theorem ccrWord_eq (sr : SR) : sr.ccrWord = sr.toWord &&& 0x1F := by
  apply BitVec.eq_of_getLsbD_eq
  intro k hk
  rw [BitVec.getLsbD_and, getLsbD_toWord]
  simp only [SR.ccrWord, BitVec.getLsbD_append]
  interval_cases k <;> simp

/-- Settles O12: bit by bit, and the fields' places as a sum. -/
theorem statusRegisterWord : Obligations.StatusRegisterWord :=
  ⟨toWord_ofWord, fun sr => ⟨ofWord_toWord sr, toNat_toWord sr, ccrWord_eq sr⟩⟩

/-! ## The conditions after a comparison -/

/-- Table 3-10, as the machine tests it (10_state R33). -/
theorem condHolds_eq (c : Cond) (sr : SR) : condHolds c sr = condTest sr c := by
  cases c <;> rfl

/-- The signed tests read N and V only through whether they differ (10_state R33). -/
theorem condHolds_signed (sr : SR) :
    condHolds .lt sr = (sr.n != sr.v) ∧ condHolds .ge sr = !(sr.n != sr.v) ∧
      condHolds .gt sr = (!(sr.n != sr.v) && !sr.z) ∧
      condHolds .le sr = (sr.z || sr.n != sr.v) := by
  simp only [condHolds]
  generalize sr.n = n, sr.v = v, sr.z = z
  revert n v z
  decide

theorem subCcr_z (sr : SR) (v d : Long) : (subCcr sr v d 0).z = decide (d = v) := by
  have hdiff := exactDiff_toNat v d 0
  have := v.isLt
  have := d.isLt
  simp only [subCcr, decide_eq_decide, ← BitVec.toNat_inj, BitVec.ofNat_eq_ofNat,
    BitVec.toNat_zero]
  omega

theorem subCcr_c (sr : SR) (v d : Long) :
    (subCcr sr v d 0).c = decide (d.toNat < v.toNat) := rfl

/-- The difference of two long words has the sign of the exact one, unless that does not fit
(41_integer_arithmetic R230). -/
theorem exactDiff_neg_iff_fits (v d : Long) :
    ((exactDiff v d 0).toInt < 0 ↔ fitsSigned (d.toInt - v.toInt) = true) ↔
      d.toInt < v.toInt := by
  have hdiff := exactDiff_toNat v d 0
  have hr := toInt_cases (exactDiff v d 0)
  have hd := toInt_cases d
  have hv := toInt_cases v
  simp only [fitsSigned, Bool.and_eq_true, decide_eq_true_eq]
  omega

/-- After a comparison N and V differ exactly if the destination is the smaller signed number
(10_state R33). -/
theorem subCcr_n_ne_v (sr : SR) (v d : Long) :
    ((subCcr sr v d 0).n != (subCcr sr v d 0).v) = decide (d.toInt < v.toInt) := by
  have hv : (subCcr sr v d 0).v = !fitsSigned (d.toInt - v.toInt) := by simp [subCcr]
  have hn : (subCcr sr v d 0).n = decide ((exactDiff v d 0).toInt < 0) := rfl
  rw [hn, hv, Bool.eq_iff_iff, decide_eq_true_eq, ← exactDiff_neg_iff_fits v d]
  cases fitsSigned (d.toInt - v.toInt) <;> simp

/-- CMP of two data registers: the flags of the exact difference, and the next instruction
(41_integer_arithmetic R237). -/
theorem exec_cmp_dn (s : State) (m n : RegNum) :
    exec (.cmp (.dn m) n) s = .next { s with
      sr := subCcr s.sr (s.dreg m) (s.dreg n) 0
      pc := s.pc + 2 } := by
  rw [← compare_eq]
  rfl

/-- The flags of a comparison read by Table 3-10: Z is equality, C the unsigned order, and N
against V the signed order (10_state R33). -/
theorem condHolds_subCcr (sr : SR) (v d : Long) :
    condHolds .eq (subCcr sr v d 0) = decide (d = v) ∧
    condHolds .ne (subCcr sr v d 0) = decide (d ≠ v) ∧
    condHolds .cs (subCcr sr v d 0) = decide (d.toNat < v.toNat) ∧
    condHolds .cc (subCcr sr v d 0) = decide (v.toNat ≤ d.toNat) ∧
    condHolds .hi (subCcr sr v d 0) = decide (v.toNat < d.toNat) ∧
    condHolds .ls (subCcr sr v d 0) = decide (d.toNat ≤ v.toNat) ∧
    condHolds .lt (subCcr sr v d 0) = decide (d.toInt < v.toInt) ∧
    condHolds .ge (subCcr sr v d 0) = decide (v.toInt ≤ d.toInt) ∧
    condHolds .gt (subCcr sr v d 0) = decide (v.toInt < d.toInt) ∧
    condHolds .le (subCcr sr v d 0) = decide (d.toInt ≤ v.toInt) := by
  obtain ⟨hlt, hge, hgt, hle⟩ := condHolds_signed (subCcr sr v d 0)
  have hnat : d = v ↔ d.toNat = v.toNat := BitVec.toNat_inj.symm
  have hint : d = v ↔ d.toInt = v.toInt := BitVec.toInt_inj.symm
  rw [hlt, hge, hgt, hle, subCcr_n_ne_v]
  simp only [condHolds, subCcr_z, subCcr_c, ← decide_not, ← Bool.decide_and, ← Bool.decide_or,
    decide_eq_decide]
  refine ⟨trivial, trivial, trivial, not_lt, ?hi, ?ls, trivial, not_lt, ?gt, ?le⟩
  case hi => rw [hnat]; omega
  case ls => rw [hnat]; omega
  case gt => rw [hint]; omega
  case le => rw [hint]; omega

/-- Settles O14: CMP leaves the flags of a comparison, which the conditions read. -/
theorem conditionsCompareOperands : Obligations.ConditionsCompareOperands :=
  fun s m n => ⟨_, exec_cmp_dn s m n, condHolds_subCcr s.sr (s.dreg m) (s.dreg n)⟩

/-! ## Decoding by the first row that admits a word -/

theorem searchRows_miss (cfg : Config) {w : Word} {row : Row} (rows : List Row)
    (h : w &&& row.mask ≠ row.bits) :
    searchRows cfg w (row :: rows) = searchRows cfg w rows := by
  rw [searchRows, if_neg h]

theorem searchRows_hit {cfg : Config} {w : Word} {row : Row} {form : Form} (rows : List Row)
    (h : w &&& row.mask = row.bits) (hb : row.build cfg w = some form) :
    searchRows cfg w (row :: rows) = some form := by
  rw [searchRows, if_pos h, hb]

/-! ## Scc -/

/-- The operation word of Scc (45_program_control R338). -/
def sccWord (c : Cond) (n : RegNum) : Word := BitVec.ofNat 16 (0x50C0 + condNumber c * 256 + n.val)

/-- The operation word of Scc is none of the illegal words, is in line 5, is in neither row before
its own, and holds the condition and the register. -/
theorem sccWord_fields (c : Cond) (n : RegNum) :
    (sccWord c n ≠ 0 ∧ sccWord c n ≠ 0x4AFC ∧ (sccWord c n).toNat / 4096 = 5) ∧
      (sccWord c n &&& 0xF1C0 ≠ 0x5080 ∧ sccWord c n &&& 0xF1C0 ≠ 0x5180) ∧
      sccWord c n &&& 0xF0F8 = 0x50C0 ∧
      Cond.ofCode ((sccWord c n).toNat / 256) = c ∧ (sccWord c n).field3 0 = n := by
  revert n
  cases c <;> decide

theorem decodeOp_sccWord (cfg : Config) (c : Cond) (n : RegNum) :
    decodeOp cfg (sccWord c n) = .ok (.done (.scc c n)) := by
  obtain ⟨⟨h0, h1, hline⟩, ⟨hadd, hsub⟩, hscc, hcond, hreg⟩ := sccWord_fields c n
  have hrow : searchRows cfg (sccWord c n) rows5 = some (.done (.scc c n)) := by
    rw [rows5, searchRows_miss _ _ hadd, searchRows_miss _ _ hsub]
    refine searchRows_hit _ hscc ?_
    simp only [Row.plain, hcond, hreg]
  rw [decodeOp, if_neg h0, if_neg h1]
  simp [hline, rowsOf, hrow]

theorem exec_scc (c : Cond) (n : RegNum) (s : State) :
    exec (.scc c n) s = .next { s with
      d := s.d.set n (replaceLow (s.dreg n) (if condTest s.sr c then 0xFF else 0) .byte)
      pc := s.pc + 2 } := by
  rw [← mergeLow_eq, ← condHolds_eq]
  rfl

/-- Settles O13: the tests are those of the table, and Scc decodes and runs by them. -/
theorem conditionsAndScc : Obligations.ConditionsAndScc := by
  intro s c n
  refine ⟨fun cfg ws => ?_, condHolds_eq c s.sr, exec_scc c n s⟩
  have h := decodeOp_sccWord cfg c n
  rw [sccWord] at h
  simp only [decodeWords, h, Form.complete]

end Sys2Proof.Machine

/-! Memory: big-endian operands and the canonical form (20_memory R60 to R62, log 1). -/

namespace Sys2Proof.Machine

/-! ## Big-endian operands -/

theorem toNat_add_ofNat (a : Long) (k : Nat) :
    (a + BitVec.ofNat 32 k).toNat = (a.toNat + k) % 2 ^ 32 := by
  simp [BitVec.toNat_add]

theorem read_byte_toNat (m : Memory) (a : Long) :
    (m.read a .byte).toNat = (m.byte a.toNat).toNat := by
  have h : (m.byte a.toNat).toNat < 2 ^ 32 := (m.byte a.toNat).isLt.trans (by decide)
  rw [Memory.read, BitVec.toNat_setWidth, Nat.mod_eq_of_lt h]

theorem read_word_toNat (m : Memory) (a : Long) :
    (m.read a .word).toNat =
      (m.byte a.toNat).toNat * 2 ^ 8 + (m.byte (a + 1).toNat).toNat := by
  have h := (m.byte a.toNat ++ m.byte (a + 1).toNat).isLt
  rw [Memory.read, BitVec.toNat_setWidth, Nat.mod_eq_of_lt (h.trans (by decide)), append_toNat]

theorem read_long_toNat (m : Memory) (a : Long) :
    (m.read a .long).toNat =
      (m.byte a.toNat).toNat * 2 ^ 24 + (m.byte (a + 1).toNat).toNat * 2 ^ 16 +
        (m.byte (a + 2).toNat).toNat * 2 ^ 8 + (m.byte (a + 3).toNat).toNat := by
  simp only [Memory.read]
  rw [append_toNat, append_toNat, append_toNat]
  ring

/-! ## A read after a write -/

/-- The bytes of an operand are at different addresses, also where they wrap. -/
theorem nodup_byteAddrs (a : Long) (sz : Size) : (byteAddrs a sz).Nodup := by
  have h01 := toNat_add_ne a (i := 0) (j := 1) (by decide) (by decide) (by decide)
  have h02 := toNat_add_ne a (i := 0) (j := 2) (by decide) (by decide) (by decide)
  have h03 := toNat_add_ne a (i := 0) (j := 3) (by decide) (by decide) (by decide)
  have h12 := toNat_add_ne a (i := 1) (j := 2) (by decide) (by decide) (by decide)
  have h13 := toNat_add_ne a (i := 1) (j := 3) (by decide) (by decide) (by decide)
  have h23 := toNat_add_ne a (i := 2) (j := 3) (by decide) (by decide) (by decide)
  simp only [BitVec.add_zero] at h01 h02 h03
  cases sz with
  | byte => simp [byteAddrs]
  | word => simp_all [byteAddrs]
  | long => simp_all [byteAddrs]

theorem read_write_same (m : Memory) (a : Long) (sz : Size) (v : Long) :
    (m.write a sz v).read a sz = truncateTo v sz := by
  have hne := nodup_byteAddrs a sz
  cases sz with
  | byte => simp [Memory.write, Memory.read, byte_setByte, truncateTo]
  | word =>
    simp only [byteAddrs, List.nodup_cons, List.mem_cons, List.not_mem_nil, or_false] at hne
    have h10 := Ne.symm hne.1
    simp only [Memory.write, Memory.read, byte_setByte, hne.1, h10, if_true, if_false, truncateTo]
    exact congrArg _ (BitVec.extractLsb'_append_extractLsb'_eq_extractLsb' rfl)
  | long =>
    simp only [byteAddrs, List.nodup_cons, List.mem_cons, List.not_mem_nil, or_false, not_or] at hne
    obtain ⟨⟨h01, h02, h03⟩, ⟨h12, h13⟩, h23, -⟩ := hne
    simp only [Memory.write, Memory.read, byte_setByte, h01, h02, h03, h12, h13, h23,
      Ne.symm h01, Ne.symm h02, Ne.symm h03, Ne.symm h12, Ne.symm h13, Ne.symm h23,
      if_true, if_false, truncateTo]
    rw [BitVec.extractLsb'_append_extractLsb'_eq_extractLsb' (show 24 = 16 + 8 from rfl),
      BitVec.extractLsb'_append_extractLsb'_eq_extractLsb' (show 16 = 8 + 8 from rfl),
      BitVec.extractLsb'_append_extractLsb'_eq_extractLsb' (show 8 = 0 + 8 from rfl)]
    exact BitVec.extractLsb'_eq_self

/-- Settles O6: the reads byte by byte, the read after a write, and the bytes outside. -/
theorem memoryIsBigEndian : Obligations.MemoryIsBigEndian := by
  intro m a sz v b
  have hb (k : Nat) : b k = (m.byte (a + BitVec.ofNat 32 k).toNat).toNat := by
    rw [toNat_add_ofNat]
  have hb0 : b 0 = (m.byte a.toNat).toNat := by rw [hb, BitVec.add_zero]
  refine ⟨?_, ?_, ?_, ?_, fun k => byte_write_of_not_mem m a sz v k⟩
  · rw [hb0, read_byte_toNat]
  · rw [hb0, hb 1, read_word_toNat]; rfl
  · rw [hb0, hb 1, hb 2, hb 3, read_long_toNat]; rfl
  · rw [read_write_same, truncateTo_eq]

/-! ## The canonical form -/

theorem byte_cons_self (a : Nat) (v : Byte) (m : Memory) :
    Memory.byte ((a, v) :: m) a = v := by
  simp [Memory.byte, lookup]

theorem byte_cons_of_ne {a b : Nat} (v : Byte) (m : Memory) (h : a ≠ b) :
    Memory.byte ((a, v) :: m) b = m.byte b := by
  simp [Memory.byte, lookup, h]

theorem byte_of_wfFrom {m : Memory} {lo a : Nat} (h : a < lo) (hw : Memory.wfFrom lo m = true) :
    m.byte a = unwritten := by
  rw [Memory.byte, lookup_of_wfFrom h hw, Option.getD_none]

theorem wfFrom_cons {lo a : Nat} {v : Byte} {m : Memory}
    (hw : Memory.wfFrom lo ((a, v) :: m) = true) :
    lo ≤ a ∧ v ≠ unwritten ∧ Memory.wfFrom (a + 1) m = true := by
  simp only [Memory.wfFrom, Bool.and_eq_true, decide_eq_true_eq, bne_iff_ne] at hw
  obtain ⟨⟨⟨hlo, -⟩, hv⟩, hm⟩ := hw
  exact ⟨hlo, hv, hm⟩

/-- The first listed address is the lowest that does not read as `unwritten`, so memories that read
the same begin with the same cell. -/
theorem first_le_of_byte_eq {a a' : Nat} {v v' : Byte} {m m' : Memory} (hv : v ≠ unwritten)
    (hw' : Memory.wfFrom (a' + 1) m' = true)
    (h : ∀ k, Memory.byte ((a, v) :: m) k = Memory.byte ((a', v') :: m') k) : a' ≤ a := by
  by_contra hlt
  have ha := h a
  rw [byte_cons_self, byte_cons_of_ne _ _ (by omega), byte_of_wfFrom (by omega) hw'] at ha
  exact hv ha

theorem not_byte_eq_nil {lo a : Nat} {v : Byte} {m : Memory}
    (hw : Memory.wfFrom lo ((a, v) :: m) = true) :
    ¬ ∀ k, Memory.byte ((a, v) :: m) k = Memory.byte [] k := by
  intro h
  obtain ⟨-, hv, -⟩ := wfFrom_cons hw
  exact hv (by simpa [byte_cons_self, Memory.byte, lookup] using h a)

theorem eq_of_byte_eq (m m' : Memory) (lo lo' : Nat) (hw : m.wfFrom lo = true)
    (hw' : m'.wfFrom lo' = true) (h : ∀ a, m.byte a = m'.byte a) : m = m' := by
  induction m generalizing m' lo lo' with
  | nil =>
    cases m' with
    | nil => rfl
    | cons c' m' => exact absurd (fun k => (h k).symm) (not_byte_eq_nil hw')
  | cons c m ih =>
    cases m' with
    | nil => exact absurd h (not_byte_eq_nil hw)
    | cons c' m' =>
      obtain ⟨a, v⟩ := c
      obtain ⟨a', v'⟩ := c'
      obtain ⟨-, hv, hm⟩ := wfFrom_cons hw
      obtain ⟨-, hv', hm'⟩ := wfFrom_cons hw'
      obtain rfl : a = a' := le_antisymm (first_le_of_byte_eq hv' hm fun k => (h k).symm)
        (first_le_of_byte_eq hv hm' h)
      have hvv : v = v' := by simpa only [byte_cons_self] using h a
      have htail (k : Nat) : Memory.byte m k = Memory.byte m' k := by
        by_cases hk : a = k
        · subst hk
          rw [byte_of_wfFrom (Nat.lt_succ_self a) hm, byte_of_wfFrom (Nat.lt_succ_self a) hm']
        · simpa only [byte_cons_of_ne _ _ hk] using h k
      rw [hvv, ih m' (a + 1) (a + 1) hm hm' htail]

/-- Settles O7: by induction on the two lists of cells, from the lowest address up. -/
theorem memoryIsCanonical : Obligations.MemoryIsCanonical :=
  fun m m' => eq_of_byte_eq m m' 0 0

end Sys2Proof.Machine

/-! Pending write errors at NOP, STOP, HALT and on a signal (20_memory R67, R75), and what a fetch
sees of the stores since the last synchronising event (20_memory R81). -/

namespace Sys2Proof.Machine

/-! ## Pending write errors -/

theorem drain_cons {s : State} {p : PendingWrite} {rest : List PendingWrite}
    (h : s.writeBuffer = p :: rest) :
    drain s = .raise (.accessWrite p.fs) { s with writeBuffer := rest } := by
  simp [drain, h]

theorem supervisorOnly_supervisor {s : State} (h : s.sr.s = true) :
    supervisorOnly s = .ok () s := by
  simp [supervisorOnly, h]

/-- A write error is reported by vector 2 with its fault status (60_exceptions R414, R420). -/
theorem raiseExc_accessWrite (fs : BitVec 4) (s : State) :
    raiseExc (.accessWrite fs) s = takeException 2 s.pc fs none s := rfl

theorem exec_nop_pending {s : State} {p : PendingWrite} {rest : List PendingWrite}
    (h : s.writeBuffer = p :: rest) :
    exec .nop s = .next (raiseExc (.accessWrite p.fs) { s with writeBuffer := rest }) := by
  change execNop s = _
  rw [execNop, drain_cons h, andThen_raise, finish_raise]

theorem exec_stop_pending {s : State} {p : PendingWrite} {rest : List PendingWrite} (v : Word)
    (hs : s.sr.s = true) (h : s.writeBuffer = p :: rest) :
    exec (.stop v) s = .next (raiseExc (.accessWrite p.fs) { s with writeBuffer := rest }) := by
  change execStop v s = _
  rw [execStop, supervisorOnly_supervisor hs, andThen_ok, drain_cons h, andThen_raise, finish_raise]

theorem exec_halt_pending {s : State} {p : PendingWrite} {rest : List PendingWrite}
    (hs : s.sr.s = true) (h : s.writeBuffer = p :: rest) :
    exec .halt s = .next (raiseExc (.accessWrite p.fs) { s with writeBuffer := rest }) := by
  change execHalt s = _
  rw [execHalt, supervisorOnly_supervisor hs, andThen_ok, drain_cons h, andThen_raise, finish_raise]

/-- A signalled error takes the place of the instruction (60_exceptions R450 step 3). -/
theorem step_signalled {s : State} {p : PendingWrite} {rest : List PendingWrite}
    (hrun : s.run = .running) (hreset : s.input.reset = false)
    (hsignal : s.input.reportWriteError = true) (h : s.writeBuffer = p :: rest) :
    step s = .next (boundary s.input
      (raiseExc (.accessWrite p.fs) { takeInput s with writeBuffer := rest })) := by
  have herror : signalledError s.input (takeInput s) =
      some ({ takeInput s with writeBuffer := rest }, p) := by
    simp [signalledError, hsignal, takeInput, h]
  have hstep : step s = afterInstr s.input (runOrReport s.input (takeInput s)) := by
    simp [step, cycle, hreset, advanceMachine, takeInput, hrun]
  rw [hstep, runOrReport, herror]
  rfl

/-- Settles O42: at NOP, STOP and HALT the wait for the pending writes raises the oldest error, and
a signal has the step raise it. -/
theorem pendingWriteErrorIsReported : Obligations.PendingWriteErrorIsReported := by
  intro s p rest h
  exact ⟨exec_nop_pending h,
    fun hs => ⟨fun v => exec_stop_pending v hs h, exec_halt_pending hs h⟩,
    fun hrun hreset hsignal => step_signalled hrun hreset hsignal h⟩

/-! ## What a fetch sees -/

/-- Going back over stores, latest first, ends at the byte there was or at one that a store
replaced. -/
theorem foldl_replaced_cases (a : Nat) (l : List Replaced) (v : Byte) :
    l.foldl (fun v r => (lookup a r).getD v) v = v ∨
      ∃ r ∈ l, lookup a r = some (l.foldl (fun v r => (lookup a r).getD v) v) := by
  induction l generalizing v with
  | nil => exact .inl rfl
  | cons r l ih =>
    rw [List.foldl_cons]
    obtain h | ⟨r', hr', h⟩ := ih ((lookup a r).getD v)
    · rw [h]
      cases hr : lookup a r with
      | none => exact .inl rfl
      | some w => exact .inr ⟨r, List.mem_cons_self, hr⟩
    · exact .inr ⟨r', List.mem_cons_of_mem _ hr', h⟩

theorem byteBefore_cases (k a : Nat) (s : State) :
    byteBefore k a s = s.mem.byte a ∨ ∃ r ∈ s.stale, lookup a r = some (byteBefore k a s) := by
  obtain h | ⟨r, hr, h⟩ := foldl_replaced_cases a (s.stale.take k) (s.mem.byte a)
  · exact .inl h
  · exact .inr ⟨r, List.mem_of_mem_take hr, h⟩

/-- A fetch that answers sees memory before some number of the latest stores. -/
theorem fetchWord_ok (a : Long) (s : State) (h : s.canFetch a = true) :
    ∃ k n, fetchWord a s = .ok (wordBefore k a s) { s with draws := n } := by
  rw [fetchWord, if_pos h]
  split
  · exact ⟨_, _, rfl⟩
  · exact ⟨0, s.draws, rfl⟩

/-- Settles O11: memory with an empty record, and otherwise each byte of memory before some stores
is the present one or in the record. -/
theorem fetchSeesOldOrNew : Obligations.FetchSeesOldOrNew := by
  intro a s h
  refine ⟨fun hs => by rw [fetchWord_eq a s hs, if_pos h], ?_⟩
  obtain ⟨k, n, hfetch⟩ := fetchWord_ok a s h
  exact ⟨byteBefore k a.toNat s, byteBefore k (a + 1).toNat s, n, hfetch,
    byteBefore_cases k a.toNat s, byteBefore_cases k (a + 1).toNat s⟩

end Sys2Proof.Machine

/-! Every step keeps the invariant. The parts of an instruction run in states that differ from the
one the instruction began in only as `PartFrame` says; an instruction that completes moves the
program counter past itself or to an even target, and one that raises an exception enters an even
handler or halts the machine. -/

namespace Sys2Proof.Machine

/-! ## What the parts of an instruction change -/

/-- `t` is `s` after parts of an instruction: general registers, memory in its canonical form, the
record of stores, pending write errors and draws apart, nothing has changed. -/
structure PartFrame (s t : State) : Prop where
  rest : t = { s with
    d := t.d, a := t.a, mem := t.mem, stale := t.stale, writeBuffer := t.writeBuffer
    draws := t.draws }
  memory : s.mem.wf = true → t.mem.wf = true

theorem PartFrame.refl (s : State) : PartFrame s s := ⟨rfl, id⟩

theorem PartFrame.trans {s t u : State} (h : PartFrame s t) (h' : PartFrame t u) :
    PartFrame s u := by
  refine ⟨h'.rest.trans ?_, fun hs => h'.memory (h.memory hs)⟩
  rw [h.rest]

/-- A part of an instruction that starts in `s` ends, or raises, within the frame of `s`. -/
def Framed {α : Type} (s : State) : Eff α → Prop
  | .ok _ t => PartFrame s t
  | .raise _ t => PartFrame s t
  | .refuse _ => True

theorem Framed.of_frame {α : Type} {s t : State} {e : Eff α} (h : Framed t e)
    (hst : PartFrame s t) : Framed s e := by
  cases e with
  | ok v u => exact hst.trans h
  | raise x u => exact hst.trans h
  | refuse r => trivial

theorem Framed.andThen {α β : Type} {s : State} {e : Eff α} {k : α → State → Eff β}
    (he : Framed s e) (hk : ∀ a t, Framed t (k a t)) : Framed s (e.andThen k) := by
  cases e with
  | ok a t => exact (hk a t).of_frame he
  | raise x t => exact he
  | refuse r => trivial

theorem setReg_frame (s : State) (r : Reg) (v : Long) : PartFrame s (s.setReg r v) := by
  cases r <;> exact ⟨rfl, id⟩

theorem readMem_framed (a : Long) (sz : Size) (s : State) : Framed s (readMem a sz s) := by
  rw [readMem_eq]
  split
  · split <;> exact .refl s
  · exact .refl s

theorem writeMem_framed (a : Long) (sz : Size) (v : Long) (s : State) :
    Framed s (writeMem a sz v s) := by
  obtain ⟨-, h⟩ | ⟨-, m, st, wb, h, hm⟩ := writeMem_cases a sz v s <;> rw [h]
  · exact .refl s
  · exact ⟨rfl, hm⟩

theorem push_framed (v : Long) (s : State) : Framed s (push v s) :=
  (writeMem_framed ..).of_frame ⟨rfl, id⟩

theorem supervisorOnly_framed (s : State) : Framed s (supervisorOnly s) := by
  unfold supervisorOnly
  split <;> exact .refl s

theorem pulsePrivilege_framed (s : State) : Framed s (pulsePrivilege s) := by
  unfold pulsePrivilege
  split
  · exact supervisorOnly_framed s
  · exact .refl s

theorem checkIndex_framed (ea : Ea) (s : State) : Framed s (checkIndex ea s) := by
  unfold checkIndex
  split <;> exact .refl s

theorem resolve_framed (ea : Ea) (sz : Size) (s : State) : Framed s (resolve ea sz s) :=
  (checkIndex_framed ea s).andThen fun _ _ => by cases ea <;> exact ⟨rfl, id⟩

theorem readPlace_framed (p : Place) (sz : Size) (s : State) : Framed s (readPlace p sz s) := by
  cases p with
  | mem a => exact readMem_framed a sz s
  | _ => exact .refl s

theorem writePlace_framed (p : Place) (sz : Size) (v : Long) (s : State) :
    Framed s (writePlace p sz v s) := by
  cases p with
  | mem a => exact writeMem_framed a sz v s
  | imm w => trivial
  | _ => exact ⟨rfl, id⟩

theorem readEa_framed (ea : Ea) (sz : Size) (s : State) : Framed s (readEa ea sz s) :=
  (resolve_framed ea sz s).andThen fun p => readPlace_framed p sz

theorem writeEa_framed (ea : Ea) (sz : Size) (v : Long) (s : State) :
    Framed s (writeEa ea sz v s) :=
  (resolve_framed ea sz s).andThen fun p => writePlace_framed p sz v

theorem addrEa_framed (ea : Ea) (s : State) : Framed s (addrEa ea s) :=
  (resolve_framed ea .long s).andThen fun p t => by
    cases p with
    | mem a => exact .refl t
    | _ => trivial

theorem movedValue_frame (src dst : Ea) (sz : Size) (v : Long) (s : State) :
    PartFrame s (movedValue src dst sz v s).2 := by
  unfold movedValue
  split
  · split <;> exact ⟨rfl, id⟩
  · split <;> exact ⟨rfl, id⟩
  · exact .refl s

theorem storeRegs_framed (rs : List Reg) (a : Long) (s : State) :
    Framed s (storeRegs rs a s) := by
  induction rs generalizing a s with
  | nil => exact .refl s
  | cons r rs ih => exact (writeMem_framed ..).andThen fun _ => ih (a + 4)

theorem loadRegs_framed (rs : List Reg) (a : Long) (s : State) : Framed s (loadRegs rs a s) := by
  induction rs generalizing a s with
  | nil => exact .refl s
  | cons r rs ih =>
    exact (readMem_framed ..).andThen fun v t => (ih (a + 4) _).of_frame (setReg_frame t r v)

theorem fetchWord_framed (a : Long) (s : State) : Framed s (fetchWord a s) := by
  unfold fetchWord
  split
  · split <;> exact ⟨rfl, id⟩
  · exact .refl s

theorem fetchWords_framed (n : Nat) (a : Long) (s : State) : Framed s (fetchWords n a s) := by
  induction n generalizing a s with
  | zero => exact .refl s
  | succ n ih =>
    exact (fetchWord_framed a s).andThen fun _ t =>
      (ih (a + 2) t).andThen fun _ u => .refl u

theorem fetchInstr_framed (s : State) : Framed s (fetchInstr s) :=
  (fetchWord_framed s.pc s).andThen fun _ t => by
    split
    · exact .refl t
    · exact (fetchWords_framed _ _ t).andThen fun _ u => by split <;> exact .refl u

/-! ## Even program counters -/

theorem even_iff (t : Long) : even t = true ↔ t.toNat % 2 = 0 := by
  simp [even]

/-- Every instruction is a whole number of words long (30_encoding R103). -/
theorem even_add_ilen {a : Long} (h : even a = true) (i : Instr) : even (a + i.ilen) = true := by
  rw [even_iff] at h ⊢
  rw [Instr.ilen, BitVec.toNat_add, BitVec.toNat_ofNat]
  omega

/-- Control goes on to an even target alone (45_program_control R330). -/
theorem checkTarget_eq (t : Long) (s : State) :
    checkTarget t s = if even t then .ok () s else .raise (.addressError .oddTarget) s := by
  rw [checkTarget, even_eq]
  cases t.getLsbD 0 <;> rfl

/-! ## Where an instruction runs and where it ends -/

/-- The states in which the parts of an instruction run: a running machine that satisfies the
invariant, after step 4 of 60_exceptions R450. -/
structure Executing (s : State) : Prop where
  running : s.run = .running
  memory : s.mem.wf = true
  pcEven : even s.pc = true
  traced : s.tracePending = s.sr.t
  sampling : s.irqInhibit = false

theorem Executing.of_frame {s t : State} (h : Executing s) (hst : PartFrame s t) :
    Executing t := by
  have hm := hst.memory h.memory
  rw [hst.rest]
  exact ⟨h.running, hm, h.pcEven, h.traced, h.sampling⟩

theorem Inv.of_running {s : State} (hrun : s.run = .running) (hm : s.mem.wf = true)
    (hpc : even s.pc = true) : Inv s where
  memory := hm
  pcEven _ := hpc
  stoppedUntraced h := by simp [hrun] at h
  stoppedSampling h := by simp [hrun] at h
  stoppedDrained h := by simp [hrun] at h

theorem Inv.of_haltedFault {s : State} (hrun : s.run = .haltedFault) (hm : s.mem.wf = true) :
    Inv s where
  memory := hm
  pcEven h := absurd hrun h
  stoppedUntraced h := by simp [hrun] at h
  stoppedSampling h := by simp [hrun] at h
  stoppedDrained h := by simp [hrun] at h

/-- Exception entry is at an even handler, or halts the machine (60_exceptions R455). -/
theorem takeException_inv (vector : Byte) (spc : Long) (fs : BitVec 4)
    (level : Option (BitVec 3)) {s : State} (hrun : s.run = .running) (hm : s.mem.wf = true) :
    Inv (takeException vector spc fs level s) := by
  obtain ⟨m, hwf, heven, h⟩ | h := takeException_cases vector spc fs level s <;> rw [h]
  · exact .of_running hrun (hwf hm) heven
  · exact .of_haltedFault rfl (haltFault_wf _)

theorem faultStatus_frame (x : Exc) (s : State) : PartFrame s (x.faultStatus s).2 := by
  cases x with
  | addressError c =>
    simp only [Exc.faultStatus, addressErrorFs]
    split <;> exact ⟨rfl, id⟩
  | _ => exact .refl s

theorem raiseExc_inv (x : Exc) {s : State} (hrun : s.run = .running) (hm : s.mem.wf = true) :
    Inv (raiseExc x s) := by
  have hframe := faultStatus_frame x s
  refine takeException_inv _ _ _ _ ?_ (hframe.memory hm)
  rw [hframe.rest]
  exact hrun

/-- The end of an instruction: the state satisfies the invariant if it completes, and is one in
which an exception can be taken if it raises one. -/
def Ends : Eff Unit → Prop
  | .ok _ t => Inv t
  | .raise _ t => t.run = .running ∧ t.mem.wf = true
  | .refuse _ => True

/-- The next state, if there is one, satisfies the invariant. -/
def NextInv : Result → Prop
  | .next t => Inv t
  | .fault _ => True
  | .refused _ => True

theorem Ends.finish {e : Eff Unit} (h : Ends e) : NextInv (finish e) := by
  cases e with
  | ok v t => exact h
  | raise x t =>
    obtain ⟨hrun, hm⟩ := h
    exact raiseExc_inv x hrun hm
  | refuse r => trivial

theorem Executing.raise {s : State} (h : Executing s) (x : Exc) : Ends (.raise x s) :=
  ⟨h.running, h.memory⟩

/-- A part of an instruction and then its end. -/
theorem Executing.ends {α : Type} {s : State} {e : Eff α} {k : α → State → Eff Unit}
    (hs : Executing s) (he : Framed s e) (hk : ∀ a t, Executing t → Ends (k a t)) :
    Ends (e.andThen k) := by
  cases e with
  | ok a t => exact hk a t (hs.of_frame he)
  | raise x t => exact (hs.of_frame he).raise x
  | refuse r => trivial

theorem ends_checkTarget {t : Long} {s : State} {k : Unit → State → Eff Unit} (hs : Executing s)
    (hk : even t = true → Ends (k () s)) : Ends ((checkTarget t s).andThen k) := by
  rw [checkTarget_eq]
  split
  · next heven => exact hk heven
  · exact hs.raise _

/-- What updates of registers, of flags, of the record of stores and of the output trace leave
alone. -/
def State.runMemPc (s : State) : RunState × Memory × Long := (s.run, s.mem, s.pc)

/-- A running machine at an even target, after such updates. -/
theorem Executing.transfer {s t : State} (hs : Executing s) {target : Long}
    (heven : even target = true) (ht : t.runMemPc = (s.run, s.mem, target)) : Inv t := by
  obtain ⟨hrun, hmem, hpc⟩ : t.run = s.run ∧ t.mem = s.mem ∧ t.pc = target := by
    simpa [State.runMemPc] using ht
  exact .of_running (hrun.trans hs.running) (hmem ▸ hs.memory) (hpc ▸ heven)

/-- The end of an instruction that moves the program counter past itself. -/
theorem Executing.advance {s t : State} (hs : Executing s) (i : Instr)
    (ht : t.runMemPc = s.runMemPc) : Inv (t.advance i) := by
  obtain ⟨hrun, hmem, hpc⟩ : t.run = s.run ∧ t.mem = s.mem ∧ t.pc = s.pc := by
    simpa [State.runMemPc] using ht
  refine hs.transfer (even_add_ilen hs.pcEven i) ?_
  simp [State.runMemPc, State.advance, hrun, hmem, hpc]

theorem next_inv {s t : State} (hs : Executing s) (i : Instr) (ht : t.runMemPc = s.runMemPc) :
    NextInv (.next (t.advance i)) := hs.advance i ht

/-- An instruction whose parts are followed by such updates. -/
theorem Executing.passes {α : Type} {s : State} {e : Eff α} {g : α → State → State} {i : Instr}
    (hs : Executing s) (he : Framed s e) (hg : ∀ a t, (g a t).runMemPc = t.runMemPc) :
    Ends (e.andThen fun a t => .ok () ((g a t).advance i)) :=
  hs.ends he fun a t ht => ht.advance i (hg a t)

theorem andThen_assoc {α β γ : Type} (e : Eff α) (k : α → State → Eff β)
    (l : β → State → Eff γ) :
    (e.andThen k).andThen l = e.andThen fun a s => (k a s).andThen l := by
  cases e <;> rfl

/-! ## The shapes of instructions -/

/-- An instruction that reads an operand and then updates registers and flags. -/
theorem readEa_inv {i : Instr} (ea : Ea) (sz : Size) {s : State} (hs : Executing s)
    {g : Long → State → State} (hg : ∀ v t, (g v t).runMemPc = t.runMemPc) :
    NextInv (finish ((readEa ea sz s).andThen fun v t => .ok () ((g v t).advance i))) :=
  (hs.passes (readEa_framed ea sz s) hg).finish

/-- An instruction that reads and writes one operand. -/
theorem modifyEa_inv (ea : Ea) (sz : Size) (f : Long → SR → Long × SR) (i : Instr) {s : State}
    (hs : Executing s) :
    NextInv (finish ((modifyEa ea sz f s).andThen fun _ t => .ok () (t.advance i))) := by
  refine Ends.finish ?_
  simp only [modifyEa, andThen_assoc, andThen_ok]
  exact hs.ends (resolve_framed ea sz s) fun p _ ht =>
    ht.ends (readPlace_framed p sz _) fun _ _ hu =>
      hu.passes (writePlace_framed p sz _ _) fun _ _ => rfl

theorem arithToEa_inv (f : Long → Long → Sum) (v : Long) (ea : Ea) (i : Instr) {s : State}
    (hs : Executing s) : NextInv (arithToEa f v ea i s) :=
  modifyEa_inv _ _ _ _ hs

theorem execAddq_inv (q : BitVec 3) (ea : Ea) {s : State} (hs : Executing s) :
    NextInv (execAddq q ea s) := by
  cases ea with
  | an n => exact next_inv hs _ rfl
  | _ => exact arithToEa_inv _ _ _ _ hs

theorem execSubq_inv (q : BitVec 3) (ea : Ea) {s : State} (hs : Executing s) :
    NextInv (execSubq q ea s) := by
  cases ea with
  | an n => exact next_inv hs _ rfl
  | _ => exact arithToEa_inv _ _ _ _ hs

theorem clear_inv (sz : Size) (ea : Ea) (i : Instr) {s : State} (hs : Executing s) :
    NextInv (clear sz ea i s) :=
  Ends.finish <| hs.passes (writeEa_framed ea sz 0 s) fun _ _ => rfl

theorem moveTo_inv (sz : Size) (src dst : Ea) (i : Instr) {s : State} (hs : Executing s) :
    NextInv (moveTo sz src dst i s) :=
  Ends.finish <| hs.ends (checkIndex_framed dst s) fun _ _ ht =>
    ht.ends (readEa_framed src sz _) fun v u hu =>
      (hu.of_frame (movedValue_frame src dst sz v u)).passes (writeEa_framed dst sz _ _)
        fun _ _ => rfl

theorem execLea_inv (ea : Ea) (n : RegNum) {s : State} (hs : Executing s) :
    NextInv (execLea ea n s) :=
  Ends.finish <| hs.passes (addrEa_framed ea s) fun _ _ => rfl

theorem execPea_inv (ea : Ea) {s : State} (hs : Executing s) : NextInv (execPea ea s) :=
  Ends.finish <| hs.ends (addrEa_framed ea s) fun _ _ ht =>
    ht.passes (push_framed ..) fun _ _ => rfl

theorem execMovemStore_inv (mask : Word) (ea : Ea) {s : State} (hs : Executing s) :
    NextInv (execMovemStore mask ea s) :=
  Ends.finish <| hs.ends (addrEa_framed ea s) fun _ _ ht =>
    ht.passes (storeRegs_framed ..) fun _ _ => rfl

theorem execMovemLoad_inv (mask : Word) (ea : Ea) {s : State} (hs : Executing s) :
    NextInv (execMovemLoad mask ea s) :=
  Ends.finish <| hs.ends (addrEa_framed ea s) fun _ _ ht =>
    ht.passes (loadRegs_framed ..) fun _ _ => rfl

theorem execLink_inv (n : RegNum) (d16 : Word) {s : State} (hs : Executing s) :
    NextInv (execLink n d16 s) := by
  refine Ends.finish ?_
  split
  · trivial
  · exact hs.passes (push_framed ..) fun _ _ => rfl

theorem execUnlk_inv (n : RegNum) {s : State} (hs : Executing s) : NextInv (execUnlk n s) := by
  refine Ends.finish ?_
  split
  · trivial
  · exact hs.passes ((readMem_framed ..).of_frame ⟨rfl, id⟩) fun _ _ => rfl

/-! ## Transfers of control -/

theorem branchIf_inv (cond : Cond) (d : Disp) (i : Instr) {s : State} (hs : Executing s) :
    NextInv (branchIf cond d i s) := by
  refine Ends.finish ?_
  split
  · exact ends_checkTarget hs fun heven => hs.transfer heven rfl
  · exact hs.advance i rfl

theorem execBra_inv (d : Disp) {s : State} (hs : Executing s) : NextInv (execBra d s) :=
  Ends.finish <| ends_checkTarget hs fun heven => hs.transfer heven rfl

theorem callTo_ends (t : Long) (i : Instr) {s : State} (hs : Executing s) :
    Ends (callTo t i s) :=
  ends_checkTarget hs fun heven =>
    hs.ends (push_framed ..) fun _ _ hu => hu.transfer heven rfl

theorem execJmp_inv (ea : Ea) {s : State} (hs : Executing s) : NextInv (execJmp ea s) :=
  Ends.finish <| hs.ends (addrEa_framed ea s) fun _ _ ht =>
    ends_checkTarget ht fun heven => ht.transfer heven rfl

theorem execJsr_inv (ea : Ea) {s : State} (hs : Executing s) : NextInv (execJsr ea s) :=
  Ends.finish <| hs.ends (addrEa_framed ea s) fun a _ ht => callTo_ends a (.jsr ea) ht

theorem execRts_inv {s : State} (hs : Executing s) : NextInv (execRts s) :=
  Ends.finish <| hs.ends (readMem_framed s.sp .long s) fun _ _ ht =>
    ends_checkTarget ht fun heven => ht.transfer heven rfl

theorem execRte_inv {s : State} (hs : Executing s) : NextInv (execRte s) :=
  Ends.finish <| hs.ends (supervisorOnly_framed s) fun _ t ht =>
    ht.ends (readMem_framed t.sp .long t) fun _ u hu => by
      split
      · exact hu.ends (readMem_framed (u.sp + 4) .long u) fun _ _ hw =>
          ends_checkTarget hw fun heven => hw.transfer heven rfl
      · exact hu.raise .format

/-! ## Waiting for the pending writes -/

/-- Waiting for the pending writes ends with none left, or raises the oldest error. -/
theorem drain_cases (s : State) :
    (s.writeBuffer = [] ∧ drain s = .ok () s) ∨
      ∃ p rest, s.writeBuffer = p :: rest ∧
        drain s = .raise (.accessWrite p.fs) { s with writeBuffer := rest } := by
  cases h : s.writeBuffer with
  | nil => exact .inl ⟨rfl, by simp [drain, h]⟩
  | cons p rest => exact .inr ⟨p, rest, rfl, drain_cons h⟩

theorem ends_drain {s : State} {k : Unit → State → Eff Unit} (hs : Executing s)
    (hk : s.writeBuffer = [] → Ends (k () s)) : Ends ((drain s).andThen k) := by
  obtain ⟨hw, h⟩ | ⟨p, rest, -, h⟩ := drain_cases s <;> rw [h]
  · exact hk hw
  · exact ⟨hs.running, hs.memory⟩

theorem execNop_inv {s : State} (hs : Executing s) : NextInv (execNop s) :=
  Ends.finish <| ends_drain hs fun _ => hs.advance .nop rfl

/-- STOP stops a machine that is not traced, with no write pending; traced, it raises the trace
exception (46_system_control R367). -/
theorem execStop_inv (v : Word) {s : State} (hs : Executing s) : NextInv (execStop v s) :=
  Ends.finish <| hs.ends (supervisorOnly_framed s) fun _ t ht => ends_drain ht fun hw => by
    dsimp only
    split
    · exact ⟨ht.running, ht.memory⟩
    · next htrace =>
      exact {
        memory := ht.memory
        pcEven _ := even_add_ilen ht.pcEven (.stop v)
        stoppedUntraced _ := ht.traced.trans (Bool.eq_false_of_not_eq_true htrace)
        stoppedSampling _ := ht.sampling
        stoppedDrained _ := hw }

/-- HALT halts the machine with no write pending (46_system_control R368). -/
theorem execHalt_inv {s : State} (hs : Executing s) : NextInv (execHalt s) :=
  Ends.finish <| hs.ends (supervisorOnly_framed s) fun _ _ ht => ends_drain ht fun hw => {
    memory := ht.memory
    pcEven _ := even_add_ilen ht.pcEven .halt
    stoppedUntraced := nofun
    stoppedSampling := nofun
    stoppedDrained _ := hw }

/-! ## System control -/

theorem execMoveFromSr_inv (n : RegNum) {s : State} (hs : Executing s) :
    NextInv (execMoveFromSr n s) :=
  Ends.finish <| hs.passes (supervisorOnly_framed s) fun _ _ => rfl

theorem execMoveToSr_inv (ea : Ea) {s : State} (hs : Executing s) :
    NextInv (execMoveToSr ea s) :=
  Ends.finish <| hs.ends (supervisorOnly_framed s) fun _ t ht =>
    ht.passes (readEa_framed ea .word t) fun _ _ => rfl

/-- What MOVEC does by its code: a write keeps memory canonical and the rest of what the invariant
speaks of, or the machine hangs, or the access error or the refusal comes (46_system_control R365,
logs 15 and 16). -/
theorem movecEffect_cases (rc : BitVec 12) (v : Long) (s : State) :
    (∃ t, movecEffect rc v s = .ok () t ∧ t.run = s.run ∧ t.pc = s.pc ∧
      (s.mem.wf = true → t.mem.wf = true)) ∨
    movecEffect rc v s = .ok () { s with run := .haltedFault } ∨
    movecEffect rc v s = .raise (.accessWrite 0b1000) s ∨
    movecEffect rc v s = .refuse (.movecUndefined rc) := by
  unfold movecEffect
  split
  · exact .inl ⟨_, rfl, rfl, rfl, id⟩
  · split
    · exact .inr (.inr (.inr rfl))
    · split
      · exact .inl ⟨_, rfl, rfl, rfl, fun _ => writeCtrl_wf _ _ _⟩
      · split
        · split
          · exact .inr (.inl rfl)
          · exact .inr (.inr (.inl rfl))
        · exact .inl ⟨_, rfl, rfl, rfl, id⟩

theorem execMovec_inv (r : Reg) (rc : BitVec 12) {s : State} (hs : Executing s) :
    NextInv (execMovec r rc s) :=
  Ends.finish <| hs.ends (supervisorOnly_framed s) fun _ t ht => by
    obtain ⟨u, h, hrun, hpc, hm⟩ | h | h | h := movecEffect_cases rc (t.reg r) t <;> rw [h]
    · refine .of_running (hrun.trans ht.running) (hm ht.memory) ?_
      have heven := even_add_ilen ht.pcEven (.movec r rc)
      rwa [← hpc] at heven
    · exact .of_haltedFault rfl ht.memory
    · exact ht.raise _
    · trivial

theorem execPulse_inv {s : State} (hs : Executing s) : NextInv (execPulse s) :=
  Ends.finish <| hs.passes (pulsePrivilege_framed s) fun _ _ => rfl

theorem writeDdata_inv (sz : Size) (ea : Ea) (i : Instr) {s : State} (hs : Executing s) :
    NextInv (writeDdata sz ea i s) :=
  Ends.finish <| hs.ends (pulsePrivilege_framed s) fun _ t ht =>
    ht.passes (readEa_framed ea sz t) fun _ _ => rfl

theorem execWdebug_inv (ea : Ea) {s : State} (hs : Executing s) : NextInv (execWdebug ea s) :=
  Ends.finish <| hs.ends (supervisorOnly_framed s) fun _ t ht =>
    ht.ends (addrEa_framed ea t) fun a u hu => by
      split
      · trivial
      · exact hu.ends (readMem_framed a .long u) fun _ w hw =>
          hw.passes (readMem_framed (a + 4) .long w) fun _ _ => rfl

/-! ## Every instruction -/

/-- Every instruction ends in a state that satisfies the invariant. The cases are grouped by the
shape that gives the instruction its meaning. -/
theorem exec_inv (i : Instr) {s : State} (hs : Executing s) : NextInv (exec i s) := by
  cases i with
  | trap | illegal4AFC | illegal0000 | lineA | lineF => exact (hs.raise _).finish
  | ori | andi | eori | not | addi | subi | cmpi | neg | negx | addx | subx =>
    exact next_inv hs _ rfl
  | extW | extL | extbL | swap | moveq | scc | trapf | trapfW | trapfL | moveFromCcr =>
    exact next_inv hs _ rfl
  | asrImm | asrReg | aslImm | aslReg | lsrImm | lsrReg | lslImm | lslReg =>
    exact next_inv hs _ rfl
  | btstDyn | btstImm | moveaW | moveaL | tstB | tstW | tstL | moveToCcr =>
    exact readEa_inv _ _ hs fun _ _ => rfl
  | mulsW | muluW | mulsL | muluL | addToDn | subToDn | adda | suba =>
    exact readEa_inv _ _ hs fun _ _ => rfl
  | cmp | cmpa | orToDn | andToDn =>
    exact readEa_inv _ _ hs fun _ _ => rfl
  | bchgDyn | bchgImm | bclrDyn | bclrImm | bsetDyn | bsetImm => exact modifyEa_inv _ _ _ _ hs
  | addToEa | subToEa | orToEa | andToEa | eor => exact modifyEa_inv _ _ _ _ hs
  | addq => exact execAddq_inv _ _ hs
  | subq => exact execSubq_inv _ _ hs
  | clrB | clrW | clrL => exact clear_inv _ _ _ hs
  | moveB | moveW | moveL => exact moveTo_inv _ _ _ _ hs
  | lea => exact execLea_inv _ _ hs
  | pea => exact execPea_inv _ hs
  | movemStore => exact execMovemStore_inv _ _ hs
  | movemLoad => exact execMovemLoad_inv _ _ hs
  | link => exact execLink_inv _ _ hs
  | unlk => exact execUnlk_inv _ hs
  | bhi | bls | bcc | bcs | bne | beq | bvc | bvs | bpl | bmi | bge | blt | bgt | ble =>
    exact branchIf_inv _ _ _ hs
  | bra => exact execBra_inv _ hs
  | bsr => exact (callTo_ends _ _ hs).finish
  | jmp => exact execJmp_inv _ hs
  | jsr => exact execJsr_inv _ hs
  | rts => exact execRts_inv hs
  | rte => exact execRte_inv hs
  | nop => exact execNop_inv hs
  | stop => exact execStop_inv _ hs
  | halt => exact execHalt_inv hs
  | moveFromSr => exact execMoveFromSr_inv _ hs
  | moveToSr => exact execMoveToSr_inv _ hs
  | movec => exact execMovec_inv _ _ hs
  | pulse => exact execPulse_inv hs
  | wddataB | wddataW | wddataL => exact writeDdata_inv _ _ _ hs
  | wdebug => exact execWdebug_inv _ hs

theorem rejected_inv (r : Reject) {s : State} (hs : Executing s) : NextInv (rejected r s) := by
  unfold rejected
  split
  · split
    · exact (hs.raise .illegal).finish
    · trivial
  · trivial
  · split
    · trivial
    · exact (hs.raise .privilege).finish
  · trivial
  · trivial

theorem beginInstr_executing {s : State} (h : Inv s) (hrun : s.run = .running) :
    Executing (beginInstr s) :=
  ⟨hrun, h.memory, h.pcEven (by rw [hrun]; nofun), rfl, rfl⟩

/-- Fetching stays within the frame, so the instruction fetched runs where `exec_inv` speaks. -/
theorem runInstr_inv {s : State} (h : Inv s) (hrun : s.run = .running) :
    NextInv (runInstr s) := by
  have hs := beginInstr_executing h hrun
  have hfetch := fetchInstr_framed (beginInstr s)
  unfold runInstr
  generalize fetchInstr (beginInstr s) = fetched at hfetch ⊢
  match fetched with
  | .raise x t => exact ((hs.of_frame hfetch).raise x).finish
  | .refuse r => trivial
  | .ok (.error r) t => exact rejected_inv r (hs.of_frame hfetch)
  | .ok (.ok i) t => exact exec_inv i (hs.of_frame hfetch)

/-! ## The boundary, reset and the step -/

/-- The invariant depends on these fields alone. -/
theorem Inv.congr {s t : State} (h : Inv s) (hmem : t.mem = s.mem) (hpc : t.pc = s.pc)
    (hrun : t.run = s.run) (htrace : t.tracePending = s.tracePending)
    (hinhibit : t.irqInhibit = s.irqInhibit) (hwrites : t.writeBuffer = s.writeBuffer) :
    Inv t := by
  obtain ⟨h1, h2, h3, h4, h5⟩ := h
  constructor <;> simpa only [hmem, hpc, hrun, htrace, hinhibit, hwrites]

theorem latchLevel_inv (level : BitVec 3) {s : State} (h : Inv s) : Inv (latchLevel level s) :=
  h.congr rfl rfl rfl rfl rfl rfl

theorem sampleInterrupts_inv (inp : EnvInput) {s : State} (h : Inv s) :
    Inv (sampleInterrupts inp s) := by
  unfold sampleInterrupts
  dsimp only
  split
  · exact takeException_inv _ _ _ _ rfl h.memory
  · exact latchLevel_inv inp.irqLevel h

theorem boundary_inv (inp : EnvInput) {s : State} (h : Inv s) : Inv (boundary inp s) := by
  unfold boundary
  split
  · exact h
  · split
    · next htraced =>
      simp only [Bool.and_eq_true, decide_eq_true_eq] at htraced
      exact takeException_inv _ _ _ _ htraced.1 h.memory
    · split
      · exact takeException_inv _ _ _ _ rfl h.memory
      · exact sampleInterrupts_inv inp h

theorem afterInstr_inv (inp : EnvInput) {r : Result} (h : NextInv r) :
    NextInv (afterInstr inp r) := by
  cases r with
  | next t => exact boundary_inv inp h
  | fault f => trivial
  | refused r => trivial

/-- A signalled error leaves the oldest pending write out and changes nothing else. -/
theorem signalledError_eq_some {inp : EnvInput} {s t : State} {p : PendingWrite}
    (h : signalledError inp s = some (t, p)) :
    ∃ rest, s.writeBuffer = p :: rest ∧ t = { s with writeBuffer := rest } := by
  unfold signalledError at h
  split at h
  · split at h
    · cases h
    · next hw => cases h; exact ⟨_, hw, rfl⟩
  · cases h

theorem runOrReport_inv (inp : EnvInput) {s : State} (h : Inv s) (hrun : s.run = .running) :
    NextInv (runOrReport inp s) := by
  unfold runOrReport
  split
  · next t p herror =>
    obtain ⟨rest, -, rfl⟩ := signalledError_eq_some herror
    exact raiseExc_inv _ hrun h.memory
  · exact runInstr_inv h hrun

theorem advanceMachine_inv (inp : EnvInput) {s : State} (h : Inv s) :
    NextInv (advanceMachine inp s) := by
  unfold advanceMachine
  split
  · next hrun => exact afterInstr_inv inp (runOrReport_inv inp h hrun)
  · exact boundary_inv inp h
  · next hrun =>
    split
    · exact boundary_inv inp (.of_running rfl h.memory (h.pcEven (by rw [hrun]; nofun)))
    · exact h
  · exact h

/-- Reset starts at an even address, or halts the machine (70_reset R472, R473). -/
theorem takeReset_inv (level : BitVec 3) {s : State} (hm : s.mem.wf = true) :
    Inv (takeReset level s) := by
  unfold takeReset
  dsimp only
  split
  · next hok =>
    simp only [Bool.and_eq_true] at hok
    obtain ⟨⟨-, heven⟩, -⟩ := hok
    exact .of_running rfl hm (by rw [even_eq]; exact heven)
  · exact .of_haltedFault rfl (haltFault_wf _)

theorem takeInput_inv {s : State} (h : Inv s) : Inv (takeInput s) :=
  h.congr rfl rfl rfl rfl rfl rfl

/-- Settles O56: reset, a running machine's instruction or exception with the boundary after it, and
a stopped or halted machine, each keep the invariant. -/
theorem stepKeepsInvariant : Obligations.StepKeepsInvariant := by
  intro s t h hstep
  have hnext : NextInv (step s) := by
    unfold step cycle
    split
    · exact takeReset_inv _ h.memory
    · exact advanceMachine_inv _ (takeInput_inv h)
  rw [hstep] at hnext
  exact hnext

end Sys2Proof.Machine

/-! Stores: the bus cycles of an operand write its bytes between them, each completes or leaves its
error pending, and the record has what the completed ones replaced (20_memory R62, R64, R65, R67,
R81). -/

namespace Sys2Proof.Machine

/-! ## The cycles of an operand -/

/-- The addresses of the bytes of a cycle. -/
def BusCycle.addrs (c : BusCycle) : List Nat := byteAddrs c.addr c.size

/-- Memory after a cycle that completes. -/
def BusCycle.store (m : Memory) (c : BusCycle) : Memory := m.write c.addr c.size c.value

/-- The cycle completes in the memory map and mode of `s`. -/
def BusCycle.answered (s : State) (c : BusCycle) : Bool := s.writeAnswer c.addr c.size == .ok

/-- What stays pending of a cycle that ends in an error (20_memory R67). -/
def BusCycle.error (s : State) (c : BusCycle) : PendingWrite :=
  ⟨c.addr, c.size, c.value, writeErrorFs (s.writeAnswer c.addr c.size)⟩

/-- The cycles have the bytes of the operand, in order. -/
theorem busCycles_addrs (a : Long) (sz : Size) (v : Long) :
    (busCycles a sz v).flatMap BusCycle.addrs = byteAddrs a sz := by
  cases sz with
  | byte => simp [busCycles, BusCycle.addrs, byteAddrs]
  | word =>
    simp only [busCycles]
    split <;> simp [BusCycle.addrs, byteAddrs]
  | long =>
    simp only [busCycles]
    split
    · simp [BusCycle.addrs, byteAddrs, BitVec.add_assoc]
    · split <;> simp [BusCycle.addrs, byteAddrs, BitVec.add_assoc]

theorem extract_extract (v : Long) (start len i n : Nat) (h : i + n ≤ len) (hl : len ≤ 32) :
    ((v.extractLsb' start len).setWidth 32).extractLsb' i n = v.extractLsb' (start + i) n := by
  ext k hk
  simp [show i + k < 32 by omega, show i + k < len by omega, Nat.add_assoc]

/-- The cycles together write the operand. -/
theorem busCycles_store (a : Long) (sz : Size) (v : Long) (m : Memory) :
    (busCycles a sz v).foldl BusCycle.store m = m.write a sz v := by
  cases sz with
  | byte => rfl
  | word =>
    simp only [busCycles]
    split
    · simp [BusCycle.store, Memory.write, extract_extract]
    · rfl
  | long =>
    simp only [busCycles]
    split
    · simp [BusCycle.store, Memory.write, extract_extract, BitVec.add_assoc]
    · split
      · simp [BusCycle.store, Memory.write, extract_extract, BitVec.add_assoc]
      · rfl

/-- An operand on its own boundary takes one cycle (20_memory R65). -/
theorem busCycles_aligned (a : Long) (sz : Size) (v : Long) (h : a.toNat % sz.bytes = 0) :
    busCycles a sz v = [⟨a, sz, v⟩] := by
  have hm : misaligned a sz = false := by rw [misaligned_eq]; simp [h]
  cases sz with
  | byte => rfl
  | word => simp [busCycles, hm]
  | long =>
    simp only [misaligned, Bool.or_eq_false_iff] at hm
    obtain ⟨h0, h1⟩ := hm
    simp only [busCycles, h0, h1, Bool.false_eq_true, if_false]

/-- A store that is not misaligned completes if all its cycles do. -/
theorem writable_eq_all (a : Long) (sz : Size) (v : Long) {s : State}
    (h : aligned a sz s = true) :
    writable a sz s = (busCycles a sz v).all (BusCycle.answered s) := by
  have hcycle : BusCycle.answered s =
      fun c => c.addrs.all fun b => (answersAt s.memoryMap s.sr.s b).write == .ok := by
    funext c
    exact writeAnswer_ok s c.addr c.size
  rw [writable, h, Bool.true_and, hcycle, ← busCycles_addrs a sz v, List.all_flatMap]

/-! ## The bytes of several cycles -/

theorem byte_store_congr {m m' : Memory} {k : Nat} (h : m.byte k = m'.byte k) (c : BusCycle) :
    (c.store m).byte k = (c.store m').byte k := by
  unfold BusCycle.store
  cases c.size <;> simp only [Memory.write, byte_setByte, h]

theorem byte_store_of_not_mem {c : BusCycle} {k : Nat} (h : k ∉ c.addrs) (m : Memory) :
    (c.store m).byte k = m.byte k :=
  byte_write_of_not_mem m c.addr c.size c.value k h

theorem byte_stores_of_not_mem {cs : List BusCycle} {k : Nat} (h : ∀ c ∈ cs, k ∉ c.addrs)
    (m : Memory) : (cs.foldl BusCycle.store m).byte k = m.byte k := by
  induction cs generalizing m with
  | nil => rfl
  | cons c cs ih =>
    obtain ⟨hc, hcs⟩ := List.forall_mem_cons.1 h
    rw [List.foldl_cons, ih hcs, byte_store_of_not_mem hc]

/-- No two of the cycles have a byte in common. -/
def Apart (cs : List BusCycle) : Prop := (cs.flatMap BusCycle.addrs).Nodup

theorem Apart.tail {c : BusCycle} {cs : List BusCycle} (h : Apart (c :: cs)) : Apart cs := by
  rw [Apart, List.flatMap_cons, List.nodup_append] at h
  obtain ⟨-, htail, -⟩ := h
  exact htail

theorem Apart.not_mem {c c' : BusCycle} {cs : List BusCycle} {k : Nat} (h : Apart (c :: cs))
    (hc' : c' ∈ cs) (hk : k ∈ c.addrs) : k ∉ c'.addrs := by
  rw [Apart, List.flatMap_cons, List.nodup_append] at h
  obtain ⟨-, -, hne⟩ := h
  exact fun hk' => hne k hk k (List.mem_flatMap_of_mem hc' hk') rfl

theorem Apart.filter {cs : List BusCycle} (h : Apart cs) (p : BusCycle → Bool) :
    Apart (cs.filter p) :=
  h.sublist (List.filter_sublist.flatMap _)

/-- A byte of one of the cycles is the one that this cycle stores. -/
theorem byte_stores_of_mem {cs : List BusCycle} (h : Apart cs) {c : BusCycle} (hc : c ∈ cs)
    {k : Nat} (hk : k ∈ c.addrs) (m : Memory) :
    (cs.foldl BusCycle.store m).byte k = (c.store m).byte k := by
  induction cs generalizing m with
  | nil => cases hc
  | cons c' cs ih =>
    rw [List.foldl_cons]
    rcases List.mem_cons.1 hc with rfl | hc
    · exact byte_stores_of_not_mem (fun d hd => h.not_mem hd hk) _
    · rw [ih h.tail hc]
      exact byte_store_congr (byte_store_of_not_mem (fun hk' => h.not_mem hc hk' hk) m) c

/-! ## The record of what stores replaced -/

theorem mem_replacedBy {m : Memory} {c : BusCycle} {e : Host.Cell} :
    e ∈ replacedBy m c ↔
      e.1 ∈ c.addrs ∧ m.byte e.1 ≠ (c.store m).byte e.1 ∧ e.2 = m.byte e.1 := by
  simp only [replacedBy, List.mem_map, List.mem_filter, bne_iff_ne, BusCycle.addrs,
    BusCycle.store]
  constructor
  · rintro ⟨k, ⟨hk, hne⟩, rfl⟩
    exact ⟨hk, hne, rfl⟩
  · rintro ⟨hk, hne, he⟩
    exact ⟨e.1, ⟨hk, hne⟩, by rw [← he]⟩

/-- In a record where equal addresses have equal bytes, a listed byte is found. -/
theorem lookup_of_mem {r : Replaced} {f : Nat → Byte} (h : ∀ e ∈ r, e.2 = f e.1) {k : Nat}
    (hk : ∃ e ∈ r, e.1 = k) : lookup k r = some (f k) := by
  induction r with
  | nil => simp at hk
  | cons e r ih =>
    obtain ⟨he, hr⟩ := List.forall_mem_cons.1 h
    by_cases hek : e.1 = k
    · rw [lookup, if_pos hek, he, hek]
    · rw [lookup, if_neg hek]
      obtain ⟨e', he', hk'⟩ := hk
      rcases List.mem_cons.1 he' with rfl | he'
      · exact absurd hk' hek
      · exact ih hr ⟨e', he', hk'⟩

theorem lookup_replacedBy {m : Memory} {c : BusCycle} {k : Nat} (hk : k ∈ c.addrs)
    (hne : m.byte k ≠ (c.store m).byte k) : lookup k (replacedBy m c) = some (m.byte k) := by
  have hbytes : ∀ e ∈ replacedBy m c, e.2 = m.byte e.1 := fun e he => by
    obtain ⟨-, -, hbyte⟩ := mem_replacedBy.1 he
    exact hbyte
  exact lookup_of_mem hbytes ⟨(k, m.byte k), mem_replacedBy.2 ⟨hk, hne, rfl⟩, rfl⟩

theorem replacedBy_congr {m m' : Memory} {c : BusCycle}
    (h : ∀ k ∈ c.addrs, m.byte k = m'.byte k) : replacedBy m c = replacedBy m' c := by
  have hfilter : c.addrs.filter (fun k => m.byte k != (c.store m).byte k) =
      c.addrs.filter (fun k => m'.byte k != (c.store m').byte k) :=
    List.filter_congr fun k hk => by rw [h k hk, byte_store_congr (h k hk)]
  change (c.addrs.filter fun k => m.byte k != (c.store m).byte k).map (fun k => (k, m.byte k)) =
    (c.addrs.filter fun k => m'.byte k != (c.store m').byte k).map (fun k => (k, m'.byte k))
  rw [hfilter]
  exact List.map_congr_left fun k hk => by rw [h k (List.mem_of_mem_filter hk)]

/-- What cycles replaced in memory, latest first; one that changed nothing leaves nothing. -/
def recorded (m : Memory) (cs : List BusCycle) : List Replaced :=
  ((cs.map (replacedBy m)).filter fun r => !r.isEmpty).reverse

theorem mem_recorded {m : Memory} {cs : List BusCycle} {r : Replaced} :
    r ∈ recorded m cs ↔ (∃ c ∈ cs, replacedBy m c = r) ∧ r ≠ [] := by
  simp [recorded]

theorem recorded_length_le (m : Memory) (cs : List BusCycle) :
    (recorded m cs).length ≤ cs.length := by
  rw [recorded, List.length_reverse]
  exact (List.length_filter_le _ _).trans_eq (List.length_map _)

theorem recorded_cons (m : Memory) (c : BusCycle) (cs : List BusCycle) (st : List Replaced) :
    recorded m (c :: cs) ++ st = recorded m cs ++ remember (replacedBy m c) st := by
  cases h : replacedBy m c <;> simp [recorded, remember, h]

theorem recorded_store {c : BusCycle} {cs : List BusCycle} (h : Apart (c :: cs)) (m : Memory) :
    recorded (c.store m) cs = recorded m cs := by
  have hmap : cs.map (replacedBy (c.store m)) = cs.map (replacedBy m) :=
    List.map_congr_left fun c' hc' => replacedBy_congr fun k hk' =>
      byte_store_of_not_mem (fun hk => h.not_mem hc' hk hk') m
  rw [recorded, recorded, hmap]

/-! ## The cycles of a store -/

theorem writeCycle_answered {s : State} {c : BusCycle} (h : BusCycle.answered s c = true) :
    writeCycle s c = { s with
      mem := c.store s.mem, stale := remember (replacedBy s.mem c) s.stale } :=
  writeCycle_ok s c (by simpa [BusCycle.answered] using h)

theorem writeCycle_failed {s : State} {c : BusCycle} (h : BusCycle.answered s c = false) :
    writeCycle s c = { s with writeBuffer := s.writeBuffer ++ [c.error s] } := by
  obtain ⟨hok, -⟩ | ⟨-, hfail⟩ := writeCycle_cases s c
  · simp [BusCycle.answered, hok] at h
  · exact hfail

/-- The cycles that are answered are stored and recorded; the errors of the others stay pending. -/
theorem writeCycles_eq {cs : List BusCycle} (h : Apart cs) (s : State) :
    cs.foldl writeCycle s = { s with
      mem := (cs.filter (BusCycle.answered s)).foldl BusCycle.store s.mem
      stale := recorded s.mem (cs.filter (BusCycle.answered s)) ++ s.stale
      writeBuffer := s.writeBuffer ++
        (cs.filter fun c => !BusCycle.answered s c).map (BusCycle.error s) } := by
  induction cs generalizing s with
  | nil => simp [recorded]
  | cons c cs ih =>
    cases hc : BusCycle.answered s c with
    | true =>
      have happart : Apart (c :: cs.filter (BusCycle.answered s)) := by
        simpa only [List.filter_cons_of_pos hc] using h.filter (BusCycle.answered s)
      rw [List.foldl_cons, writeCycle_answered hc, List.filter_cons_of_pos hc,
        List.filter_cons_of_neg (by simp [hc]), recorded_cons, ← recorded_store happart]
      exact ih h.tail _
    | false =>
      rw [List.filter_cons_of_neg (by simp [hc]), List.filter_cons_of_pos (by simp [hc]),
        List.map_cons, List.append_cons, List.foldl_cons, writeCycle_failed hc]
      exact ih h.tail _

/-! ## What a store leaves -/

/-- A byte after cycles that are apart is the old one, or else in one of them and then the one that
this cycle stores. -/
theorem byte_stores_cases {cs : List BusCycle} (h : Apart cs) (m : Memory) (k : Nat) :
    (cs.foldl BusCycle.store m).byte k = m.byte k ∨
      ∃ c ∈ cs, k ∈ c.addrs ∧ (cs.foldl BusCycle.store m).byte k = (c.store m).byte k := by
  by_cases hk : ∃ c ∈ cs, k ∈ c.addrs
  · obtain ⟨c, hc, hk⟩ := hk
    exact .inr ⟨c, hc, hk, byte_stores_of_mem h hc hk m⟩
  · push Not at hk
    exact .inl (byte_stores_of_not_mem hk m)

/-- Every byte in the record is one that memory held and that has changed. -/
theorem recorded_changed {cs : List BusCycle} (h : Apart cs) {m : Memory} {r : Replaced}
    (hr : r ∈ recorded m cs) :
    r ≠ [] ∧ ∀ e ∈ r, e.2 = m.byte e.1 ∧ (cs.foldl BusCycle.store m).byte e.1 ≠ e.2 := by
  obtain ⟨⟨c, hc, rfl⟩, hne⟩ := mem_recorded.1 hr
  refine ⟨hne, fun e he => ?_⟩
  obtain ⟨hk, hchanged, hbyte⟩ := mem_replacedBy.1 he
  rw [hbyte, byte_stores_of_mem h hc hk]
  exact ⟨rfl, hchanged.symm⟩

/-- Every byte that has changed is in the record. -/
theorem changed_recorded {cs : List BusCycle} (h : Apart cs) {m : Memory} {k : Nat}
    (hk : (cs.foldl BusCycle.store m).byte k ≠ m.byte k) :
    ∃ r ∈ recorded m cs, lookup k r = some (m.byte k) := by
  obtain hold | ⟨c, hc, hmem, hnew⟩ := byte_stores_cases h m k
  · exact absurd hold hk
  · have hfound := lookup_replacedBy hmem fun heq => hk (hnew.trans heq.symm)
    refine ⟨replacedBy m c, mem_recorded.2 ⟨⟨c, hc, rfl⟩, fun hnil => ?_⟩, hfound⟩
    rw [hnil] at hfound
    cases hfound

theorem busCycles_apart (a : Long) (sz : Size) (v : Long) : Apart (busCycles a sz v) := by
  rw [Apart, busCycles_addrs]
  exact nodup_byteAddrs a sz

theorem not_mem_addrs {a : Long} {sz : Size} {v : Long} {k : Nat} (h : k ∉ byteAddrs a sz)
    {c : BusCycle} (hc : c ∈ busCycles a sz v) : k ∉ c.addrs := by
  rw [← busCycles_addrs a sz v] at h
  exact fun hk => h (List.mem_flatMap_of_mem hc hk)

/-- The fault status of a pending write error (60_exceptions R414). -/
theorem writeErrorFs_eq (w : WriteAnswer) :
    writeErrorFs w = if w = .writeProtected then 0b1001 else 0b1000 := by
  cases w <;> rfl

/-- A store in one cycle that ends in an error: memory is unchanged and the error pending. -/
theorem writeCycles_single_failed {a : Long} {sz : Size} {v : Long} {s : State}
    (h : BusCycle.answered s ⟨a, sz, v⟩ = false) :
    [⟨a, sz, v⟩].foldl writeCycle s = { s with writeBuffer := s.writeBuffer ++
      [⟨a, sz, v, if s.writeAnswer a sz = .writeProtected then 0b1001 else 0b1000⟩] } := by
  rw [List.foldl_cons, writeCycle_failed h, BusCycle.error, writeErrorFs_eq]
  rfl

/-- What a store that is not misaligned leaves, whatever its cycles answer. -/
theorem busCycles_stored (a : Long) (sz : Size) (v : Long) {s : State}
    (h : aligned a sz s = true) :
    Stored a sz v s ((busCycles a sz v).foldl writeCycle s) := by
  have happart := busCycles_apart a sz v
  have hanswered := happart.filter (BusCycle.answered s)
  have hwritable := writable_eq_all a sz v h
  have hfails (hboundary : a.toNat % sz.bytes = 0) (hw : writable a sz s = false) :
      (busCycles a sz v).foldl writeCycle s = { s with writeBuffer := s.writeBuffer ++
        [⟨a, sz, v, if s.writeAnswer a sz = .writeProtected then 0b1001 else 0b1000⟩] } := by
    rw [hwritable, busCycles_aligned a sz v hboundary, List.all_cons, List.all_nil,
      Bool.and_true] at hw
    rw [busCycles_aligned a sz v hboundary, writeCycles_single_failed hw]
  rw [writeCycles_eq happart] at hfails ⊢
  exact {
    rest := rfl
    completes := fun hw => by
      rw [hwritable, List.all_eq_true] at hw
      rw [List.filter_eq_self.2 hw, List.filter_eq_nil_iff.2 (by simpa using hw), busCycles_store]
      exact ⟨rfl, List.append_nil _⟩
    fails := fun hboundary hw =>
      ⟨(congrArg State.mem (hfails hboundary hw) :),
        (congrArg State.writeBuffer (hfails hboundary hw) :)⟩
    outside := fun k hk =>
      byte_stores_of_not_mem (fun c hc => not_mem_addrs hk (List.mem_of_mem_filter hc)) s.mem
    inside := fun k => by
      obtain hold | ⟨c, hc, hk, hnew⟩ := byte_stores_cases hanswered s.mem k
      · exact .inl hold
      · refine .inr (hnew.trans ?_)
        rw [← busCycles_store a sz v, byte_stores_of_mem happart (List.mem_of_mem_filter hc) hk]
    pending := by
      refine ⟨_, rfl, ?_, fun p hp => ?_⟩
      · rw [hwritable]
        simp [List.filter_eq_nil_iff]
      · obtain ⟨c, -, rfl⟩ := List.mem_map.1 hp
        rw [BusCycle.error, writeErrorFs_eq, or_comm]
        exact ite_eq_or_eq _ _ _
    record := by
      refine ⟨_, rfl, fun hboundary => ?_, fun r => recorded_changed hanswered,
        fun k => changed_recorded hanswered⟩
      rw [busCycles_aligned a sz v hboundary]
      exact (recorded_length_le _ _).trans (List.length_filter_le _ _) }

/-- Settles O10: a store that is not misaligned is that of its cycles, and the others raise the
address error. -/
theorem stores : Obligations.Stores := by
  intro a sz v s
  constructor <;> intro h
  · exact ⟨_, busCycles_stored a sz v h, by rw [writeMem, misaligned_check]; simp [h]⟩
  · rw [writeMem, misaligned_check]
    simp [h]

end Sys2Proof.Machine

/-! Operands, pushes and register lists that fail: the exception an instruction raises and the state
in which it does (20_memory R61, R64, R66, 30_encoding R115, 40_data_movement R200, R206 to R209). -/

namespace Sys2Proof.Machine

/-! ## Accesses that fail -/

theorem writeMem_misaligned {a : Long} {sz : Size} {s : State} (v : Long)
    (h : aligned a sz s = false) :
    writeMem a sz v s = .raise (.addressError .misalignedWrite) s := by
  obtain ⟨-, hraise⟩ | ⟨ha, -⟩ := writeMem_cases a sz v s
  · exact hraise
  · rw [h] at ha
    cases ha

/-- A misaligned push has decremented SP (D4). -/
theorem push_misaligned {s : State} (v : Long) (h : aligned (s.sp - 4) .long s = false) :
    push v s = .raise (.addressError .misalignedWrite) (s.setSp (s.sp - 4)) :=
  writeMem_misaligned v h

theorem checkTarget_even {t : Long} {s : State} (h : even t = true) :
    checkTarget t s = .ok () s := by
  rw [checkTarget_eq, if_pos h]

/-! ## Operands -/

theorem checkIndex_valid {ea : Ea} {s : State} (h : eaIndexValid ea = true) :
    checkIndex ea s = .ok () s := by
  simp [checkIndex, h]

theorem checkIndex_invalid {ea : Ea} {s : State} (h : eaIndexValid ea = false) :
    checkIndex ea s = .raise (.addressError .invalidIndex) s := by
  simp [checkIndex, h]

/-- The control modes update no register (30_encoding R122). -/
theorem eaAfter_control {ea : Ea} (h : ea.isControl = true) (sz : Size) (s : State) :
    eaAfter ea sz s = s := by
  cases ea with
  | ind | disp | index | absW | absL | pcDisp | pcIndex => rfl
  | _ => cases h

theorem addrEa_control {ea : Ea} {s : State} {a : Long} (hc : ea.isControl = true)
    (hv : eaIndexValid ea = true) (ha : eaAddr ea .long s = some a) :
    addrEa ea s = .ok a s := by
  rw [addrEa, resolve_mem ea .long s a hv ha, eaAfter_control hc, andThen_ok]

theorem isControl_of_isIndOrDisp {ea : Ea} (h : ea.isIndOrDisp = true) :
    ea.isControl = true ∧ eaIndexValid ea = true := by
  cases ea with
  | ind | disp => exact ⟨rfl, rfl⟩
  | _ => cases h

theorem eaValue_mem {ea : Ea} {sz : Size} {s : State} {a : Long} (h : eaAddr ea sz s = some a) :
    eaValue ea sz s = s.mem.read a sz := by
  cases ea with
  | dn | an | imm => cases h
  | _ => cases h; rfl

/-- Reading a register or an immediate (30_encoding R111, R112, R119). -/
theorem readEa_register {ea : Ea} {sz : Size} {s : State} (h : eaAddr ea sz s = none) :
    readEa ea sz s = .ok (eaValue ea sz s) (eaAfter ea sz s) := by
  obtain ⟨p, hp, hplace⟩ := resolve_register ea sz s h
  rw [readEa, hp, andThen_ok]
  cases ea with
  | dn | an | imm =>
    cases hplace
    simp only [readPlace, truncateTo_eq, eaValue, eaAfter]
  | _ => exact hplace.elim

/-- Reading an operand that can be read (30_encoding R120). -/
theorem readEa_readable {ea : Ea} {sz : Size} {s : State} (h : eaReadable ea sz s = true) :
    readEa ea sz s = .ok (eaValue ea sz s) (eaAfter ea sz s) := by
  rw [eaReadable, Bool.and_eq_true] at h
  obtain ⟨hv, hr⟩ := h
  cases ha : eaAddr ea sz s with
  | none => exact readEa_register ha
  | some a =>
    rw [ha] at hr
    have hread : readable a sz (eaAfter ea sz s) = true := (eaAfter_readable ..).trans hr
    rw [readEa, resolve_mem ea sz s a hv ha, andThen_ok, readPlace, readMem_ok _ _ _ hread,
      eaAfter_mem, eaValue_mem ha]

/-- A memory operand that cannot be read, after the register update (D4). -/
theorem readEa_unreadable {ea : Ea} {sz : Size} {s : State} {a : Long}
    (hv : eaIndexValid ea = true) (ha : eaAddr ea sz s = some a)
    (h : readable a sz s = false) :
    readEa ea sz s = .raise (readFault a sz s) (eaAfter ea sz s) := by
  have hr : readable a sz (eaAfter ea sz s) = false := by rw [eaAfter_readable, h]
  rw [readEa, resolve_mem ea sz s a hv ha, andThen_ok, readPlace, readMem_error _ _ _ hr,
    readFault, readFault, eaAfter_aligned]

/-- A misaligned memory operand to be written, after the register update (D4). -/
theorem writeEa_misaligned {ea : Ea} {sz : Size} {s : State} {a : Long} (v : Long)
    (hv : eaIndexValid ea = true) (ha : eaAddr ea sz s = some a)
    (h : aligned a sz s = false) :
    writeEa ea sz v s = .raise (.addressError .misalignedWrite) (eaAfter ea sz s) := by
  rw [writeEa, resolve_mem ea sz s a hv ha, andThen_ok, writePlace,
    writeMem_misaligned v (by rw [eaAfter_aligned, h])]

/-- Apart from MOVE An,(An)+ and MOVE An,-(An), MOVE stores the value it read (30_encoding R125). -/
theorem movedValue_of_not_storesUpdated {src dst : Ea} (h : storesUpdated src dst = false)
    (sz : Size) (v : Long) (s : State) : movedValue src dst sz v s = (v, s) := by
  unfold movedValue
  split
  · simp only [storesUpdated, beq_eq_false_iff_ne] at h
    rw [if_neg h]
  · simp only [storesUpdated, beq_eq_false_iff_ne] at h
    rw [if_neg h]
  · rfl

/-! ## TST, LEA, MOVE, CLR -/

theorem exec_tstInstr (sz : Size) (ea : Ea) (s : State) :
    exec (tstInstr sz ea) s = testOperand sz ea (tstInstr sz ea) s := by
  cases sz <;> rfl

theorem exec_moveInstr (sz : Size) (src dst : Ea) (s : State) :
    exec (moveInstr sz src dst) s = moveTo sz src dst (moveInstr sz src dst) s := by
  cases sz <;> rfl

theorem exec_clrInstr (sz : Size) (ea : Ea) (s : State) :
    exec (clrInstr sz ea) s = clear sz ea (clrInstr sz ea) s := by
  cases sz <;> rfl

theorem exec_tstInstr_raise {sz : Size} {ea : Ea} {s t : State} {x : Exc}
    (h : readEa ea sz s = .raise x t) : exec (tstInstr sz ea) s = .next (raiseExc x t) := by
  rw [exec_tstInstr, testOperand, h, andThen_raise, finish_raise]

theorem exec_clrInstr_raise {sz : Size} {ea : Ea} {s t : State} {x : Exc}
    (h : writeEa ea sz 0 s = .raise x t) : exec (clrInstr sz ea) s = .next (raiseExc x t) := by
  rw [exec_clrInstr, clear, h, andThen_raise, finish_raise]

theorem exec_lea_invalid {ea : Ea} (n : RegNum) {s : State} (h : eaIndexValid ea = false) :
    exec (.lea ea n) s = .next (raiseExc (.addressError .invalidIndex) s) := by
  change execLea ea n s = _
  rw [execLea, addrEa, resolve_invalid _ _ _ h, andThen_raise, andThen_raise, finish_raise]

/-- The index word of the destination is looked at before the source is read (log 25). -/
theorem exec_moveInstr_invalid (sz : Size) (src : Ea) {dst : Ea} {s : State}
    (h : eaIndexValid dst = false) :
    exec (moveInstr sz src dst) s = .next (raiseExc (.addressError .invalidIndex) s) := by
  rw [exec_moveInstr, moveTo, checkIndex_invalid h, andThen_raise, finish_raise]

theorem exec_moveInstr_misaligned {sz : Size} {src dst : Ea} {s : State} {a : Long}
    (hsrc : eaReadable src sz s = true) (hstored : storesUpdated src dst = false)
    (hdst : eaIndexValid dst = true) (ha : eaAddr dst sz (eaAfter src sz s) = some a)
    (hmis : aligned a sz s = false) :
    exec (moveInstr sz src dst) s = .next (raiseExc (.addressError .misalignedWrite)
      (eaAfter dst sz (eaAfter src sz s))) := by
  have hmis' : aligned a sz (eaAfter src sz s) = false := by rw [eaAfter_aligned, hmis]
  rw [exec_moveInstr, moveTo, checkIndex_valid hdst, andThen_ok, readEa_readable hsrc, andThen_ok,
    movedValue_of_not_storesUpdated hstored]
  dsimp only
  rw [writeEa_misaligned _ hdst ha hmis', andThen_raise, finish_raise]

/-! ## Pushes -/

theorem exec_pea_misaligned {ea : Ea} {s : State} {a : Long} (hc : ea.isControl = true)
    (hv : eaIndexValid ea = true) (ha : eaAddr ea .long s = some a)
    (hmis : aligned (s.sp - 4) .long s = false) :
    exec (.pea ea) s =
      .next (raiseExc (.addressError .misalignedWrite) (s.setSp (s.sp - 4))) := by
  change execPea ea s = _
  rw [execPea, addrEa_control hc hv ha, andThen_ok, push_misaligned a hmis, andThen_raise,
    finish_raise]

/-- A call to an even target whose push is misaligned. -/
theorem callTo_misaligned {t : Long} (i : Instr) {s : State} (ht : even t = true)
    (hmis : aligned (s.sp - 4) .long s = false) :
    callTo t i s = .raise (.addressError .misalignedWrite) (s.setSp (s.sp - 4)) := by
  rw [callTo, checkTarget_even ht, andThen_ok, push_misaligned _ hmis, andThen_raise]

theorem exec_jsr_misaligned {ea : Ea} {s : State} {a : Long} (hc : ea.isControl = true)
    (hv : eaIndexValid ea = true) (ha : eaAddr ea .long s = some a) (heven : even a = true)
    (hmis : aligned (s.sp - 4) .long s = false) :
    exec (.jsr ea) s =
      .next (raiseExc (.addressError .misalignedWrite) (s.setSp (s.sp - 4))) := by
  change execJsr ea s = _
  rw [execJsr, addrEa_control hc hv ha, andThen_ok, callTo_misaligned _ heven hmis, finish_raise]

theorem exec_link_misaligned {n : RegNum} (d : Word) {s : State} (hn : n ≠ 7)
    (hmis : aligned (s.sp - 4) .long s = false) :
    exec (.link n d) s =
      .next (raiseExc (.addressError .misalignedWrite) (s.setSp (s.sp - 4))) := by
  change execLink n d s = _
  rw [execLink, if_neg hn, push_misaligned _ hmis, andThen_raise, finish_raise]

theorem branchTarget_eq (d : Disp) (s : State) : branchTarget d s = s.pc + 2 + Disp.value d := by
  cases d <;> rfl

theorem exec_bsr_misaligned {d : Disp} {s : State} (heven : even (s.pc + 2 + Disp.value d) = true)
    (hmis : aligned (s.sp - 4) .long s = false) :
    exec (.bsr d) s =
      .next (raiseExc (.addressError .misalignedWrite) (s.setSp (s.sp - 4))) := by
  change execBsr d s = _
  rw [execBsr, branchTarget_eq, callTo_misaligned _ heven hmis, finish_raise]

/-! ## MOVEM and UNLK -/

theorem exec_movemStore_misaligned {mask : Word} {ea : Ea} {s : State} {a : Long}
    (hea : ea.isIndOrDisp = true) (ha : eaAddr ea .long s = some a) (hmask : maskRegs mask ≠ [])
    (hmis : aligned a .long s = false) :
    exec (.movemStore mask ea) s = .next (raiseExc (.addressError .misalignedWrite) s) := by
  obtain ⟨hc, hv⟩ := isControl_of_isIndOrDisp hea
  obtain ⟨r, rs, hregs⟩ := List.exists_cons_of_ne_nil hmask
  change execMovemStore mask ea s = _
  rw [execMovemStore, addrEa_control hc hv ha, andThen_ok, selected_eq, hregs, storeRegs,
    writeMem_misaligned _ hmis, andThen_raise, andThen_raise, finish_raise]

theorem setReg_aligned (a : Long) (sz : Size) (s : State) (r : Reg) (v : Long) :
    aligned a sz (s.setReg r v) = aligned a sz s := by
  simp [aligned]

theorem setReg_readable (a : Long) (sz : Size) (s : State) (r : Reg) (v : Long) :
    readable a sz (s.setReg r v) = readable a sz s := by
  simp [readable, setReg_aligned]

theorem next_long (a : Long) (k : Nat) :
    a + 4 + BitVec.ofNat 32 (4 * k) = a + BitVec.ofNat 32 (4 * (k + 1)) := by
  rw [Nat.mul_add, BitVec.ofNat_add, BitVec.add_assoc, BitVec.add_comm (4 : Long)]
  rfl

/-- A list of registers whose `j`-th read is the first to fail has loaded those before (D15). -/
theorem loadRegs_unreadable {rs : List Reg} {j : Nat} (hj : j < rs.length) {a : Long} {s : State}
    (hbefore : ∀ k, k < j → readable (a + BitVec.ofNat 32 (4 * k)) .long s = true)
    (hfail : readable (a + BitVec.ofNat 32 (4 * j)) .long s = false) :
    loadRegs rs a s = .raise (readFault (a + BitVec.ofNat 32 (4 * j)) .long s)
      (loadLongs a s (rs.take j)) := by
  induction rs generalizing j a s with
  | nil => exact absurd hj (Nat.not_lt_zero j)
  | cons r rs ih =>
    cases j with
    | zero =>
      rw [Nat.mul_zero, BitVec.add_zero] at hfail ⊢
      rw [loadRegs, readMem_error _ _ _ hfail, andThen_raise, List.take_zero, loadLongs]
    | succ j =>
      have hfirst : readable a .long s = true := by simpa using hbefore 0 (Nat.succ_pos j)
      have hbefore' (k : Nat) (hk : k < j) : readable (a + 4 + BitVec.ofNat 32 (4 * k)) .long
          (s.setReg r (s.mem.read a .long)) = true := by
        rw [next_long, setReg_readable]
        exact hbefore (k + 1) (Nat.succ_lt_succ hk)
      have hfail' : readable (a + 4 + BitVec.ofNat 32 (4 * j)) .long
          (s.setReg r (s.mem.read a .long)) = false := by
        rw [next_long, setReg_readable, hfail]
      rw [loadRegs, readMem_ok _ _ _ hfirst, andThen_ok,
        ih (Nat.lt_of_succ_lt_succ hj) hbefore' hfail', next_long, readFault, readFault,
        setReg_aligned, List.take_succ_cons, loadLongs]

theorem exec_movemLoad_unreadable {mask : Word} {ea : Ea} {s : State} {a : Long} {j : Nat}
    (hea : ea.isIndOrDisp = true) (ha : eaAddr ea .long s = some a)
    (hj : j < (maskRegs mask).length)
    (hbefore : ∀ k, k < j → readable (a + BitVec.ofNat 32 (4 * k)) .long s = true)
    (hfail : readable (a + BitVec.ofNat 32 (4 * j)) .long s = false) :
    exec (.movemLoad mask ea) s = .next (raiseExc
      (readFault (a + BitVec.ofNat 32 (4 * j)) .long s)
      (loadLongs a s ((maskRegs mask).take j))) := by
  obtain ⟨hc, hv⟩ := isControl_of_isIndOrDisp hea
  change execMovemLoad mask ea s = _
  rw [execMovemLoad, addrEa_control hc hv ha, andThen_ok, selected_eq,
    loadRegs_unreadable hj hbefore hfail, andThen_raise, finish_raise]

/-- UNLK has put An into A7 when its read fails (40_data_movement R209). -/
theorem exec_unlk_unreadable {n : RegNum} {s : State} (hn : n ≠ 7)
    (h : readable (s.areg n) .long s = false) :
    exec (.unlk n) s =
      .next (raiseExc (readFault (s.areg n) .long s) (s.setSp (s.areg n))) := by
  change execUnlk n s = _
  rw [execUnlk, if_neg hn, readMem_error _ _ (s.setSp (s.areg n)) h, andThen_raise, finish_raise]
  rfl

/-- Settles O48: clause by clause, the part of the instruction that raises, in its state. -/
theorem operandFaultsTrap : Obligations.OperandFaultsTrap := by
  intro s
  refine ⟨?invalid, ?read, ?move, ?clr, ?push, ?movemStore, ?movemLoad, ?unlk⟩
  case invalid =>
    intro sz ea src n h
    refine ⟨exec_tstInstr_raise ?_, exec_lea_invalid n h, exec_moveInstr_invalid sz src h⟩
    rw [readEa, resolve_invalid _ _ _ h, andThen_raise]
  case read =>
    intro sz ea a hv ha h
    exact exec_tstInstr_raise (readEa_unreadable hv ha h)
  case move =>
    intro sz src dst a hsrc hstored hdst ha hmis
    exact exec_moveInstr_misaligned hsrc hstored hdst ha hmis
  case clr =>
    intro sz ea a hv ha hmis
    exact exec_clrInstr_raise (writeEa_misaligned 0 hv ha hmis)
  case push =>
    intro hmis
    exact ⟨fun ea a hc hv ha => ⟨exec_pea_misaligned hc hv ha hmis,
        fun heven => exec_jsr_misaligned hc hv ha heven hmis⟩,
      fun n d hn => exec_link_misaligned d hn hmis,
      fun d heven => exec_bsr_misaligned heven hmis⟩
  case movemStore =>
    intro mask ea a hea ha hmask hmis
    exact exec_movemStore_misaligned hea ha hmask hmis
  case movemLoad =>
    intro mask ea a j hea ha hj hbefore hfail
    exact exec_movemLoad_unreadable hea ha hj hbefore hfail
  case unlk =>
    intro n hn h
    exact exec_unlk_unreadable hn h

end Sys2Proof.Machine

/-! Operands read, and MOVE of a register that its own destination updates (30_encoding R110 to
R125). -/

namespace Sys2Proof.Machine

/-! ## Reading -/

/-- Settles O8: a register or an immediate by its mode, a memory operand by its address. -/
theorem operandRead : Obligations.OperandRead :=
  fun _ _ _ h => readEa_readable h

theorem not_readable_of_not_aligned {a : Long} {sz : Size} {s : State}
    (h : aligned a sz s = false) : readable a sz s = false := by
  rw [readable, h, Bool.false_and]

/-- Settles O9: the index word, then the alignment, then the answers of memory. -/
theorem operandReadFaults : Obligations.OperandReadFaults := by
  intro ea sz s
  refine ⟨fun hindex => ?_, fun a hv ha hmis => ?_, fun a hv ha hal hread => ?_⟩
  · rw [readEa, resolve_invalid ea sz s hindex, andThen_raise]
  · rw [readEa_unreadable hv ha (not_readable_of_not_aligned hmis), readFault, hmis]
    rfl
  · rw [readEa_unreadable hv ha hread, readFault, if_pos hal]

/-! ## Storing to a mode that updates its register -/

/-- A store reads neither an address register nor the draw counter, and leaves both. -/
theorem Stored.with_a_draws {a : Long} {sz : Size} {v : Long} {s t : State}
    (h : Stored a sz v s t) (regs : Vector Long 8) (k : Nat) :
    Stored a sz v { s with a := regs, draws := k } { t with a := regs, draws := k } where
  rest := by rw [h.rest]
  completes := h.completes
  fails := h.fails
  outside := h.outside
  inside := h.inside
  pending := h.pending
  record := h.record

/-- A memory operand that is written: its bytes are stored, and the register updated. -/
theorem writeEa_stored {ea : Ea} {sz : Size} {s : State} {a : Long} (v : Long)
    (hv : eaIndexValid ea = true) (ha : eaAddr ea sz s = some a) (h : aligned a sz s = true) :
    ∃ t, Stored a sz v s t ∧ writeEa ea sz v s = .ok () { t with a := (eaAfter ea sz s).a } := by
  obtain ⟨hstore, -⟩ := stores a sz v (eaAfter ea sz s)
  obtain ⟨t, ht, hwrite⟩ := hstore (by rw [eaAfter_aligned, h])
  obtain ⟨regs, hafter⟩ := eaAfter_eq ea sz s
  rw [hafter] at ht
  refine ⟨_, ht.with_a_draws s.a s.draws, ?_⟩
  rw [writeEa, resolve_mem ea sz s a hv ha, andThen_ok, writePlace, hwrite, hafter]
  rw [ht.rest]

/-! ## MOVE An,(An)+ and MOVE An,-(An) -/

/-- MOVE of An to (An)+ or -(An) takes An before or after the update, by a draw (R125, log 12). -/
theorem movedValue_of_storesUpdated {n : RegNum} {dst : Ea}
    (h : dst = .postinc n ∨ dst = .predec n) (sz : Size) (s : State) :
    ∃ v, (v = lowBytes (s.areg n) sz ∨ v = lowBytes ((eaAfter dst sz s).areg n) sz) ∧
      movedValue (.an n) dst sz (lowBytes (s.areg n) sz) s = (v, s.drawn) := by
  refine ⟨if Config.freeUpdated s.draws then lowBytes ((eaAfter dst sz s).areg n) sz
    else lowBytes (s.areg n) sz, (ite_eq_or_eq _ _ _).symm, ?_⟩
  rcases h with rfl | rfl <;>
    simp [movedValue, truncateTo_eq, eaAfter, autoStep, State.areg, vector_get_set]

/-- Settles O17: the value drawn is stored at the destination, whose register is updated. -/
theorem moveOfUpdatedRegister : Obligations.MoveOfUpdatedRegister := by
  intro s sz n dst a hdst ha hal
  have hv : eaIndexValid dst = true := by rcases hdst with rfl | rfl <;> rfl
  have hread : readEa (.an n) sz s = .ok (lowBytes (s.areg n) sz) s := readEa_register rfl
  obtain ⟨haddr, hregs⟩ : eaAddr dst sz s.drawn = some a ∧
      (eaAfter dst sz s.drawn).a = (eaAfter dst sz s).a := by
    rcases hdst with rfl | rfl <;> exact ⟨ha, rfl⟩
  have hlen : (moveInstr sz (.an n) dst).ilen = 2 := by
    rcases hdst with rfl | rfl <;> cases sz <;> rfl
  obtain ⟨v, hvalue, hmoved⟩ := movedValue_of_storesUpdated hdst sz s
  obtain ⟨t, hstored, hwrite⟩ := writeEa_stored (s := s.drawn) v hv haddr hal
  refine ⟨v, _, hvalue, hstored.with_a_draws s.a s.draws, ?_⟩
  rw [exec_moveInstr, moveTo, checkIndex_valid hv, andThen_ok, hread, andThen_ok, hmoved]
  dsimp only
  rw [hwrite, andThen_ok, finish_ok, State.advance, hlen, logic_eq, hregs, hstored.rest]
  rfl

end Sys2Proof.Machine

/-! Instruction words: what the encoder puts into a word and the decoder takes out of it
(30_encoding R101, R102, R110 to R123). -/

namespace Sys2Proof

/-! ## Fixed bits and fields of a word -/

/-- A field of `k` bits at bit `j` has no bit in common with a mask that is clear there. -/
theorem field_and_mask {x k j mask : Nat} (hx : x < 2 ^ k) (hmask : mask / 2 ^ j % 2 ^ k = 0) :
    x * 2 ^ j &&& mask = 0 := by
  apply Nat.eq_of_testBit_eq
  intro b
  rw [Nat.testBit_and, Nat.testBit_mul_two_pow, Nat.zero_testBit]
  by_cases hb : j ≤ b
  · by_cases hk : b - j < k
    · have h : (mask / 2 ^ j % 2 ^ k).testBit (b - j) = false := by rw [hmask, Nat.zero_testBit]
      rw [Nat.testBit_mod_two_pow, Nat.testBit_div_two_pow, Nat.sub_add_cancel hb] at h
      simp_all
    · have h : x.testBit (b - j) = false := Nat.testBit_lt_two_pow
        (hx.trans_le (Nat.pow_le_pow_right (by omega) (by omega)))
      simp [h]
  · simp [hb]

/-- Two fields that a mask is clear at, one above the other. -/
theorem fields_and_mask {x y j mask : Nat} (hx : x * 2 ^ j &&& mask = 0) (hy : y &&& mask = 0)
    (hlow : y < 2 ^ j) : (x * 2 ^ j + y) &&& mask = 0 := by
  rw [Nat.mul_comm, Nat.two_pow_add_eq_or_of_lt hlow, Nat.and_or_distrib_right, Nat.mul_comm, hx,
    hy, Nat.zero_or]

/-- A mask takes the fixed bits, which it holds, out of an operation word, whose fields it is
clear at. -/
theorem opword_and_mask {bits x mask : Nat} (hbits : bits &&& mask = bits)
    (hx : x &&& mask = 0) :
    opword (bits + x) &&& BitVec.ofNat 16 mask = BitVec.ofNat 16 bits := by
  have hdisjoint : bits &&& x = 0 := by
    rw [← hbits, Nat.and_assoc, Nat.and_comm mask, hx, Nat.and_zero]
  have hor : opword (bits + x) = BitVec.ofNat 16 (bits ||| x) := by
    rw [opword, BitVec.ofNat_add, BitVec.ofNat_or]
    exact BitVec.add_eq_or_of_and_eq_zero _ _ (by rw [← BitVec.ofNat_and, hdisjoint])
  rw [hor, ← BitVec.ofNat_and, Nat.and_or_distrib_right, hbits, hx, Nat.or_zero]

/-- The fixed bits are clear where the mask is. -/
theorem bits_clear {bits mask j k : Nat} (hbits : bits &&& mask = bits)
    (hmask : mask / 2 ^ j % 2 ^ k = 0) : bits / 2 ^ j % 2 ^ k = 0 := by
  rw [← hbits, Nat.and_div_two_pow, Nat.and_mod_two_pow, hmask, Nat.and_zero]

theorem opword_toNat {v : Nat} (h : v < 65536) : (opword v).toNat = v :=
  Nat.mod_eq_of_lt h

theorem field3_eq {w : Word} {lo : Nat} {n : RegNum} (h : w.toNat / 2 ^ lo % 8 = n.val) :
    w.field3 lo = n :=
  Fin.ext h

theorem extract_eq {w : Word} {lo len : Nat} {q : BitVec len}
    (h : w.toNat / 2 ^ lo % 2 ^ len = q.toNat) : w.extractLsb' lo len = q := by
  apply BitVec.eq_of_toNat_eq
  rw [BitVec.extractLsb'_toNat, Nat.shiftRight_eq_div_pow, h]

theorem bit_lt (b : Bool) : bit b < 2 := by cases b <;> decide

theorem getLsbD_eq {w : Word} {k : Nat} {b : Bool} (h : w.toNat / 2 ^ k % 2 = bit b) :
    w.getLsbD k = b := by
  rw [BitVec.getLsbD, Nat.testBit_eq_decide_div_mod_eq, h]
  cases b <;> rfl

/-! ## Registers, index words, long words -/

theorem Reg.code_lt (r : Reg) : r.code < 16 := by
  cases r with
  | d n => exact n.isLt.trans (by decide)
  | a n => have := n.isLt; rw [Reg.code]; omega

/-- Bits 15-12 of an index word and of MOVEC's second word name a general register (R115). -/
theorem reg_of_code {w : Word} {r : Reg} (h : w.toNat / 4096 = r.code) :
    (if w.getLsbD 15 then Reg.a (w.field3 12) else Reg.d (w.field3 12)) = r := by
  cases r with
  | d n =>
    have hn := n.isLt
    rw [Reg.code] at h
    rw [getLsbD_eq (b := false) (show _ = 0 by omega), if_neg Bool.false_ne_true,
      field3_eq (n := n) (by omega)]
  | a n =>
    have hn := n.isLt
    rw [Reg.code] at h
    rw [getLsbD_eq (b := true) (show _ = 1 by omega), if_pos rfl,
      field3_eq (n := n) (by omega)]

theorem IndexWord.ofWord_toWord (x : IndexWord) : IndexWord.ofWord x.toWord = x := by
  obtain ⟨xn, long, scale, full, d8⟩ := x
  have hxn := xn.code_lt
  have hlong := bit_lt long
  have hscale := scale.isLt
  have hfull := bit_lt full
  have hd8 := d8.isLt
  have hw : (IndexWord.toWord ⟨xn, long, scale, full, d8⟩).toNat = xn.code * 4096
      + bit long * 2048 + scale.toNat * 512 + bit full * 256 + d8.toNat :=
    Nat.mod_eq_of_lt (by dsimp only; omega)
  rw [IndexWord.ofWord, reg_of_code (r := xn) (by omega), getLsbD_eq (b := long) (by omega),
    getLsbD_eq (b := full) (by omega), extract_eq (q := scale) (by omega),
    extract_eq (q := d8) (by omega)]

theorem movecOf_encode (r : Reg) (rc : BitVec 12) :
    movecOf (BitVec.ofNat 16 (r.code * 4096 + rc.toNat)) = .movec r rc := by
  have hr := r.code_lt
  have hrc := rc.isLt
  have hw : (BitVec.ofNat 16 (r.code * 4096 + rc.toNat)).toNat = r.code * 4096 + rc.toNat :=
    Nat.mod_eq_of_lt (by omega)
  rw [movecOf, reg_of_code (r := r) (by omega), extract_eq (q := rc) (by omega)]

theorem Long.hi_append_lo (v : Long) : Long.hi v ++ Long.lo v = v := by
  rw [Long.hi, Long.lo,
    BitVec.extractLsb'_append_extractLsb'_eq_extractLsb' (show 16 = 0 + 16 from rfl)]
  exact BitVec.extractLsb'_eq_self

/-- An immediate of a word is kept, zero-extended (R123). -/
theorem lo_setWidth {v : Long} (h : v.toNat < 65536) : (Long.lo v).setWidth 32 = v := by
  apply BitVec.eq_of_toNat_eq
  simp [Long.lo]
  omega

/-- An immediate of a byte is kept, zero-extended (R123). -/
theorem lo_byte_setWidth {v : Long} (h : v.toNat < 256) :
    ((Long.lo v).extractLsb' 0 8).setWidth 32 = v := by
  apply BitVec.eq_of_toNat_eq
  simp [Long.lo]
  omega

/-! ## The effective address field -/

/-- The field of an operation word that stands for an effective address (30_encoding R110). -/
def Ea.field : Ea → EaField
  | .dn n => ⟨.dn, n⟩
  | .an n => ⟨.an, n⟩
  | .ind n => ⟨.ind, n⟩
  | .postinc n => ⟨.postinc, n⟩
  | .predec n => ⟨.predec, n⟩
  | .disp n _ => ⟨.disp, n⟩
  | .index n _ => ⟨.index, n⟩
  | .absW _ => ⟨.absW, 0⟩
  | .absL _ => ⟨.absL, 1⟩
  | .pcDisp _ => ⟨.pcDisp, 2⟩
  | .pcIndex _ => ⟨.pcIndex, 3⟩
  | .imm _ => ⟨.imm, 4⟩

theorem Ea.regBits_lt (ea : Ea) : ea.regBits < 8 := by
  cases ea with
  | dn n | an n | ind n | postinc n | predec n | disp n | index n => exact n.isLt
  | _ => simp [Ea.regBits]

theorem Ea.modeBits_lt (ea : Ea) : ea.modeBits < 8 := by
  cases ea <;> simp [Ea.modeBits]

theorem Ea.srcBits_lt (ea : Ea) : ea.srcBits < 64 := by
  have hmode := ea.modeBits_lt
  have hreg := ea.regBits_lt
  rw [Ea.srcBits]
  omega

theorem eaFieldOf_bits (ea : Ea) :
    eaFieldOf (Fin.ofNat 8 ea.modeBits) (Fin.ofNat 8 ea.regBits) = some ea.field := by
  cases ea with
  | dn n | an n | ind n | postinc n | predec n | disp n | index n =>
    rw [Ea.regBits, Fin.ofNat_val_eq_self]
    rfl
  | _ => rfl

theorem srcField_eq {w : Word} {ea : Ea} (h : w.toNat % 64 = ea.srcBits) :
    w.srcField = some ea.field := by
  have hmode := ea.modeBits_lt
  have hreg := ea.regBits_lt
  rw [Ea.srcBits] at h
  rw [← eaFieldOf_bits, Word.srcField]
  congr 1 <;> refine field3_eq ?_ <;> rw [Fin.val_ofNat] <;> omega

theorem dstField_eq {w : Word} {ea : Ea} (hreg : w.toNat / 512 % 8 = ea.regBits)
    (hmode : w.toNat / 64 % 8 = ea.modeBits) : w.dstField = some ea.field := by
  rw [← eaFieldOf_bits, Word.dstField, ← hreg, ← hmode]
  congr 1 <;> refine field3_eq ?_ <;> rw [Fin.val_ofNat] <;> omega

/-! ## The mode lists on fields and on effective addresses -/

theorem Ea.field_isData (ea : Ea) : ea.field.mode.isData = ea.isData := by
  cases ea <;> rfl

theorem Ea.field_isAlterable (ea : Ea) : ea.field.mode.isAlterable = ea.isAlterable := by
  cases ea <;> rfl

theorem Ea.field_isDataAlterable (ea : Ea) :
    ea.field.mode.isDataAlterable = ea.isDataAlterable := by
  cases ea <;> rfl

theorem Ea.field_isMemoryAlterable (ea : Ea) :
    ea.field.mode.isMemoryAlterable = ea.isMemoryAlterable := by
  cases ea <;> rfl

theorem Ea.field_isControl (ea : Ea) : ea.field.mode.isControl = ea.isControl := by
  cases ea <;> rfl

theorem Ea.field_isShort (ea : Ea) : ea.field.mode.isShort = ea.isShort := by
  cases ea <;> rfl

theorem Ea.field_isIndOrDisp (ea : Ea) : ea.field.mode.isIndOrDisp = ea.isIndOrDisp := by
  cases ea <;> rfl

theorem Ea.field_isDnOrImm (ea : Ea) : ea.field.mode.isDnOrImm = ea.isDnOrImm := by
  cases ea <;> rfl

theorem field_combines (src dst : Ea) :
    src.field.mode.combines dst.field.mode = moveCombination src dst := by
  cases src with
  | dn | an | ind | postinc | predec => rfl
  | _ => cases dst <;> rfl

/-! ## Immediates that fit -/

theorem Ea.fits_long (ea : Ea) : ea.fits .long = true := by
  cases ea <;> rfl

theorem Ea.fits_of_isAlterable {ea : Ea} (h : ea.isAlterable = true) (sz : Size) :
    ea.fits sz = true := by
  cases ea with
  | imm v => cases h
  | _ => rfl

theorem Ea.fits_of_isDataAlterable {ea : Ea} (h : ea.isDataAlterable = true) (sz : Size) :
    ea.fits sz = true := by
  rw [Ea.isDataAlterable, Bool.and_eq_true] at h
  exact fits_of_isAlterable h.2 sz

theorem Ea.isDataAlterable_of_isMemoryAlterable {ea : Ea} (h : ea.isMemoryAlterable = true) :
    ea.isDataAlterable = true := by
  cases ea with
  | dn n => rfl
  | _ => exact h

/-! ## The effective addresses that a row accepts -/

/-- The row's mode list allows the effective address, and an immediate fits the row's size. -/
def Ea.Accepted (ea : Ea) (sz : Size) (allowed : EaMode → Bool) : Prop :=
  allowed ea.field.mode = true ∧ ea.fits sz = true

theorem Ea.accepted_any {ea : Ea} {sz : Size} (h : ea.fits sz = true) :
    ea.Accepted sz anyMode :=
  ⟨rfl, h⟩

theorem Ea.accepted_data {ea : Ea} {sz : Size} (h : (ea.isData && ea.fits sz) = true) :
    ea.Accepted sz EaMode.isData := by
  obtain ⟨hdata, hfits⟩ := Bool.and_eq_true_iff.1 h
  exact ⟨(field_isData ea).trans hdata, hfits⟩

theorem Ea.accepted_dnOrImm {ea : Ea} {sz : Size} (h : (ea.isDnOrImm && ea.fits sz) = true) :
    ea.Accepted sz EaMode.isDnOrImm := by
  obtain ⟨hmode, hfits⟩ := Bool.and_eq_true_iff.1 h
  exact ⟨(field_isDnOrImm ea).trans hmode, hfits⟩

theorem Ea.accepted_data_long {ea : Ea} (h : ea.isData = true) :
    ea.Accepted .long EaMode.isData :=
  ⟨(field_isData ea).trans h, fits_long ea⟩

theorem Ea.accepted_control {ea : Ea} (h : ea.isControl = true) :
    ea.Accepted .long EaMode.isControl :=
  ⟨(field_isControl ea).trans h, fits_long ea⟩

theorem Ea.accepted_alterable {ea : Ea} {sz : Size} (h : ea.isAlterable = true) :
    ea.Accepted sz EaMode.isAlterable :=
  ⟨(field_isAlterable ea).trans h, fits_of_isAlterable h sz⟩

theorem Ea.accepted_dataAlterable {ea : Ea} {sz : Size} (h : ea.isDataAlterable = true) :
    ea.Accepted sz EaMode.isDataAlterable :=
  ⟨(field_isDataAlterable ea).trans h, fits_of_isDataAlterable h sz⟩

theorem Ea.accepted_memoryAlterable {ea : Ea} {sz : Size} (h : ea.isMemoryAlterable = true) :
    ea.Accepted sz EaMode.isMemoryAlterable :=
  ⟨(field_isMemoryAlterable ea).trans h,
    fits_of_isDataAlterable (isDataAlterable_of_isMemoryAlterable h) sz⟩

/-! ## The extension words of an effective address -/

/-- The decoder completes a field from the words that the encoder puts after it (R110, R123). -/
theorem complete_encode {ea : Ea} {sz : Size} (h : ea.fits sz = true) (ws : List Word) :
    ea.field.complete sz (ea.encode sz ++ ws) = some (ea, ws) := by
  cases ea with
  | index n x | pcIndex x =>
    simp only [Ea.field, Ea.encode, EaField.complete, List.cons_append, List.nil_append,
      IndexWord.ofWord_toWord]
  | absL a =>
    simp only [Ea.field, Ea.encode, EaField.complete, List.cons_append, List.nil_append,
      Long.hi_append_lo]
  | imm v =>
    cases sz with
    | byte =>
      simp only [Ea.field, Ea.encode, EaField.complete, List.cons_append, List.nil_append,
        lo_byte_setWidth (of_decide_eq_true h)]
    | word =>
      simp only [Ea.field, Ea.encode, EaField.complete, List.cons_append, List.nil_append,
        lo_setWidth (of_decide_eq_true h)]
    | long =>
      simp only [Ea.field, Ea.encode, EaField.complete, List.cons_append, List.nil_append,
        Long.hi_append_lo]
  | _ => rfl

end Sys2Proof

/-! The search of the opcode table (30_encoding R105): which row a word selects. -/

namespace Sys2Proof

/-! ## The first row that accepts a word -/

/-- The row does not accept the word. -/
def Row.Rejects (row : Row) (cfg : Config) (w : Word) : Prop :=
  w &&& row.mask = row.bits → row.build cfg w = none

/-- No word has the fixed bits of both rows. -/
def Row.apart (row row' : Row) : Bool := row.bits &&& row'.mask != row'.bits &&& row.mask

theorem Row.rejects_of_apart {row row' : Row} {w : Word} (h : row.apart row' = true)
    (hw : w &&& row'.mask = row'.bits) (cfg : Config) : row.Rejects cfg w := by
  intro hw'
  refine absurd ?_ (bne_iff_ne.1 h)
  rw [← hw, ← hw', BitVec.and_assoc, BitVec.and_assoc, BitVec.and_comm row.mask]

/-- The fixed bits of a row, where its mask is set. -/
theorem extract_of_matches {row : Row} {w : Word} {lo len : Nat} (h : w &&& row.mask = row.bits)
    (hmask : row.mask.extractLsb' lo len = BitVec.allOnes len) :
    w.extractLsb' lo len = row.bits.extractLsb' lo len := by
  rw [← h, BitVec.extractLsb'_and, hmask, BitVec.and_allOnes]

theorem searchRows_skip {cfg : Config} {w : Word} {row : Row} (h : row.Rejects cfg w)
    (rows : List Row) : searchRows cfg w (row :: rows) = searchRows cfg w rows := by
  by_cases hw : w &&& row.mask = row.bits
  · rw [searchRows, if_pos hw, h hw]
  · exact Machine.searchRows_miss cfg rows hw

theorem searchRows_of_not_rejects {cfg : Config} {w : Word} {row : Row} (h : ¬ row.Rejects cfg w)
    (rows : List Row) : ∃ form, w &&& row.mask = row.bits ∧ row.build cfg w = some form ∧
      searchRows cfg w (row :: rows) = some form := by
  obtain ⟨hw, hbuild⟩ := Classical.not_imp.1 h
  obtain ⟨form, hbuild⟩ := Option.ne_none_iff_exists'.1 hbuild
  exact ⟨form, hw, hbuild, Machine.searchRows_hit rows hw hbuild⟩

theorem searchRows_eq_none_iff {cfg : Config} {w : Word} {rows : List Row} :
    searchRows cfg w rows = none ↔ ∀ row ∈ rows, row.Rejects cfg w := by
  induction rows with
  | nil => simp [searchRows]
  | cons row rows ih =>
    rw [List.forall_mem_cons, ← ih]
    by_cases hr : row.Rejects cfg w
    · rw [searchRows_skip hr, and_iff_right hr]
    · obtain ⟨form, -, -, hfound⟩ := searchRows_of_not_rejects hr rows
      simp [hfound, hr]

theorem searchRows_of_first {cfg : Config} {w : Word} {rows : List Row} {k : Nat} {row : Row}
    {form : Form} (hrow : rows[k]? = some row) (hbefore : ∀ r ∈ rows.take k, r.Rejects cfg w)
    (hw : w &&& row.mask = row.bits) (hbuild : row.build cfg w = some form) :
    searchRows cfg w rows = some form := by
  induction rows generalizing k with
  | nil => simp at hrow
  | cons r rows ih =>
    cases k with
    | zero =>
      obtain rfl : r = row := by simpa using hrow
      exact Machine.searchRows_hit rows hw hbuild
    | succ k =>
      rw [List.take_succ_cons] at hbefore
      obtain ⟨hr, hrest⟩ := List.forall_mem_cons.1 hbefore
      rw [searchRows_skip hr]
      exact ih (by simpa using hrow) hrest

/-- A row that a search found is in the list and accepts the word. -/
theorem exists_row_of_searchRows {cfg : Config} {w : Word} {rows : List Row} {form : Form}
    (h : searchRows cfg w rows = some form) :
    ∃ row ∈ rows, w &&& row.mask = row.bits ∧ row.build cfg w = some form := by
  induction rows with
  | nil => cases h
  | cons row rows ih =>
    by_cases hr : row.Rejects cfg w
    · rw [searchRows_skip hr] at h
      obtain ⟨row', hmem, hrow'⟩ := ih h
      exact ⟨row', List.mem_cons_of_mem _ hmem, hrow'⟩
    · obtain ⟨form', hw, hbuild, hfound⟩ := searchRows_of_not_rejects hr rows
      exact ⟨row, List.mem_cons_self, hw, by rw [hbuild, ← hfound, h]⟩

/-! ## The line of a row -/

/-- The row's fixed bits are those of a line, and of neither word that is looked at before the
table (30_encoding R104, R105). -/
def Row.inLine (line : Nat) (row : Row) : Bool :=
  row.mask.extractLsb' 12 4 == BitVec.allOnes 4 && (row.bits.extractLsb' 12 4).toNat == line &&
    0 &&& row.mask != row.bits && 0x4AFC &&& row.mask != row.bits

theorem rowsOf_inLine (line : Nat) : (rowsOf line).all (Row.inLine line) = true := by
  unfold rowsOf
  split <;> rfl

theorem decodeOp_of_row {cfg : Config} {w : Word} {line k : Nat} {row : Row} {form : Form}
    (hrow : (rowsOf line)[k]? = some row)
    (hbefore : ∀ r ∈ (rowsOf line).take k, r.Rejects cfg w) (hw : w &&& row.mask = row.bits)
    (hbuild : row.build cfg w = some form) : decodeOp cfg w = .ok form := by
  have hin := List.all_eq_true.1 (rowsOf_inLine line) row (List.mem_of_getElem? hrow)
  simp only [Row.inLine, Bool.and_eq_true, beq_iff_eq, bne_iff_ne] at hin
  obtain ⟨⟨⟨hmask, hbits⟩, hzero⟩, hillegal⟩ := hin
  have hw0 : w ≠ 0 := by rintro rfl; exact hzero hw
  have hw4 : w ≠ 0x4AFC := by rintro rfl; exact hillegal hw
  have hwline : w.toNat / 4096 = line := by
    have h := congrArg BitVec.toNat (extract_of_matches hw hmask)
    rw [hbits, BitVec.extractLsb'_toNat, Nat.shiftRight_eq_div_pow] at h
    omega
  have hten : line ≠ 10 := by rintro rfl; simp [rowsOf] at hrow
  simp only [decodeOp, if_neg hw0, if_neg hw4, hwline, if_neg hten,
    searchRows_of_first hrow hbefore hw hbuild]

/-- The row is in the table, and the rows before it in its line reject the word if it does have
the row's fixed bits. -/
def Row.FirstFor (row : Row) (cfg : Config) (w : Word) : Prop :=
  ∃ line k, (rowsOf line)[k]? = some row ∧
    (w &&& row.mask = row.bits → ∀ r ∈ (rowsOf line).take k, r.Rejects cfg w)

theorem Row.FirstFor.decode {row : Row} {cfg : Config} {i : Instr} {form : Form} {rest : List Word}
    (hfirst : row.FirstFor cfg i.op) (hw : i.op &&& row.mask = row.bits)
    (hbuild : row.build cfg i.op = some form)
    (hform : form.complete (i.ext ++ rest) = .ok (i, rest)) :
    decodeWords cfg (encode i ++ rest) = .ok (i, rest) := by
  obtain ⟨line, k, hrow, hbefore⟩ := hfirst
  rw [encode, List.cons_append, decodeWords, decodeOp_of_row hrow (hbefore hw) hw hbuild]
  exact hform

/-- Most rows have no word in common with the rows before them in their line. -/
theorem Row.FirstFor.of_apart {row : Row} {cfg : Config} {w : Word} (line k : Nat)
    (hrow : (rowsOf line)[k]? = some row)
    (h : ((rowsOf line).take k).all (Row.apart · row) = true) :
    row.FirstFor cfg w :=
  ⟨line, k, hrow, fun hw r hr => Row.rejects_of_apart (List.all_eq_true.1 h r hr) hw cfg⟩

/-- The row's words have a data register, mode 0, where others have an effective address. -/
def Row.hasDn (row : Row) : Bool :=
  row.mask.extractLsb' 3 3 == BitVec.allOnes 3 && row.bits.extractLsb' 3 3 == 0

/-- A row that accepts no data register may have words in common with rows that have one. -/
theorem Row.FirstFor.of_mode {row : Row} {cfg : Config} {w : Word} (line k : Nat)
    (hrow : (rowsOf line)[k]? = some row)
    (h : ((rowsOf line).take k).all (fun r => r.apart row || r.hasDn) = true)
    (hmode : w.toNat / 8 % 8 ≠ 0) : row.FirstFor cfg w := by
  refine ⟨line, k, hrow, fun hw r hr => ?_⟩
  rcases Bool.or_eq_true_iff.1 (List.all_eq_true.1 h r hr) with hapart | hdn
  · exact Row.rejects_of_apart hapart hw cfg
  · intro hw'
    simp only [Row.hasDn, Bool.and_eq_true, beq_iff_eq] at hdn
    obtain ⟨hmask, hbits⟩ := hdn
    have h := congrArg BitVec.toNat (extract_of_matches hw' hmask)
    rw [hbits, BitVec.extractLsb'_toNat, Nat.shiftRight_eq_div_pow] at h
    exact absurd h hmode

end Sys2Proof

/-! Each row of the opcode table reads back the words of its instructions (30_encoding R101 to
R128), a lemma for each kind of row. In each, `hfirst` says that the row is in the table and that
the rows before it in its line reject the word, and `hbits`, `hop` and `hext` say what the encoder
makes of the instruction. -/

namespace Sys2Proof

/-! ## Operation words of fixed bits and fields -/

theorem opword_low_matches {mask bits b : Nat} (k : Nat) (hbits : bits &&& mask = bits)
    (hmask : mask / 2 ^ 0 % 2 ^ k = 0) (hb : b < 2 ^ k) :
    opword (bits + b) &&& BitVec.ofNat 16 mask = BitVec.ofNat 16 bits := by
  have hfield := field_and_mask hb hmask
  rw [pow_zero, Nat.mul_one] at hfield
  exact opword_and_mask hbits hfield

theorem opword_high_low_matches {mask bits a b : Nat} (k : Nat) (hbits : bits &&& mask = bits)
    (hlow : mask / 2 ^ 0 % 2 ^ k = 0) (hhigh : mask / 2 ^ 9 % 2 ^ 3 = 0) (ha : a < 8)
    (hb : b < 2 ^ k) (hk : 2 ^ k ≤ 512) :
    opword (bits + a * 512 + b) &&& BitVec.ofNat 16 mask = BitVec.ofNat 16 bits := by
  have hb' := field_and_mask hb hlow
  rw [pow_zero, Nat.mul_one] at hb'
  rw [Nat.add_assoc]
  exact opword_and_mask hbits
    (fields_and_mask (j := 9) (field_and_mask (k := 3) ha hhigh) hb' (hb.trans_le hk))

section Kinds

variable {cfg : Config} {bits : Nat} {sz : Size} {allowed : EaMode → Bool} {ea : Ea}
  {rest : List Word}

/-! ## Rows with an effective address -/

theorem ofEa_build {mask bits w : Word} {kf : Word → Ea → Instr}
    (hsrc : w.srcField = some ea.field) (hmode : allowed ea.field.mode = true) :
    (Row.ofEa mask bits sz allowed kf).build cfg w = some (.ea sz ea.field (kf w)) := by
  simp [Row.ofEa, hsrc, hmode]

theorem ea_complete {kf : Ea → Instr} (hfits : ea.fits sz = true) :
    (Form.ea sz ea.field kf).complete (ea.encode sz ++ rest) = .ok (kf ea, rest) := by
  simp [Form.complete, complete_encode hfits]

/-- A row whose operation word is the effective address and fixed bits. -/
theorem decode_ea (mk : Ea → Instr)
    (hfirst : (Row.ofEa 0xFFC0 (BitVec.ofNat 16 bits) sz allowed fun _ => mk).FirstFor cfg
      (mk ea).op)
    (hbits : bits &&& 0xFFC0 = bits) (hop : (mk ea).op = opword (bits + ea.srcBits))
    (hext : (mk ea).ext = ea.encode sz) (haccepted : ea.Accepted sz allowed) :
    decodeWords cfg (encode (mk ea) ++ rest) = .ok (mk ea, rest) := by
  obtain ⟨hmode, hfits⟩ := haccepted
  have hlow := bits_clear (j := 0) (k := 6) hbits (by decide)
  have hea := ea.srcBits_lt
  refine hfirst.decode ?_ (ofEa_build (ea := ea) (srcField_eq ?_) hmode) (hext ▸ ea_complete hfits)
  · rw [hop]
    exact opword_low_matches 6 hbits (by decide) hea
  · rw [hop, opword, BitVec.toNat_ofNat]
    omega

/-- A row with an effective address and a field in bits 11-9. -/
theorem decode_highEa {a : Nat} {kf : Word → Ea → Instr} {i : Instr}
    (hfirst : (Row.ofEa 0xF1C0 (BitVec.ofNat 16 bits) sz allowed kf).FirstFor cfg i.op)
    (hbits : bits &&& 0xF1C0 = bits) (ha : a < 8)
    (hop : i.op = opword (bits + a * 512 + ea.srcBits))
    (hext : i.ext = ea.encode sz) (hk : ∀ w : Word, w.toNat / 2 ^ 9 % 8 = a → kf w ea = i)
    (haccepted : ea.Accepted sz allowed) :
    decodeWords cfg (encode i ++ rest) = .ok (i, rest) := by
  obtain ⟨hmode, hfits⟩ := haccepted
  have hlow := bits_clear (j := 0) (k := 6) hbits (by decide)
  have hhigh := bits_clear (j := 9) (k := 3) hbits (by decide)
  have hea := ea.srcBits_lt
  have hi : kf i.op ea = i := hk _ (by rw [hop, opword, BitVec.toNat_ofNat]; omega)
  refine hfirst.decode ?_ (ofEa_build (ea := ea) (srcField_eq ?_) hmode) ?_
  · rw [hop]
    exact opword_high_low_matches 6 hbits (by decide) (by decide) ha hea (by decide)
  · rw [hop, opword, BitVec.toNat_ofNat]
    omega
  · rw [hext, ea_complete hfits, hi]

theorem decode_regEa {n : RegNum} (mk : RegNum → Ea → Instr)
    (hfirst : (Row.ofEa 0xF1C0 (BitVec.ofNat 16 bits) sz allowed fun w => mk (w.field3 9)).FirstFor
      cfg (mk n ea).op)
    (hbits : bits &&& 0xF1C0 = bits) (hop : (mk n ea).op = opword (bits + n.val * 512 + ea.srcBits))
    (hext : (mk n ea).ext = ea.encode sz) (haccepted : ea.Accepted sz allowed) :
    decodeWords cfg (encode (mk n ea) ++ rest) = .ok (mk n ea, rest) :=
  decode_highEa hfirst hbits n.isLt hop hext (fun _ hw => by rw [field3_eq hw]) haccepted

theorem decode_quickEa {q : BitVec 3} (mk : BitVec 3 → Ea → Instr)
    (hfirst : (Row.ofEa 0xF1C0 (BitVec.ofNat 16 bits) sz allowed
      fun w => mk (w.extractLsb' 9 3)).FirstFor cfg (mk q ea).op)
    (hbits : bits &&& 0xF1C0 = bits)
    (hop : (mk q ea).op = opword (bits + q.toNat * 512 + ea.srcBits))
    (hext : (mk q ea).ext = ea.encode sz) (haccepted : ea.Accepted sz allowed) :
    decodeWords cfg (encode (mk q ea) ++ rest) = .ok (mk q ea, rest) :=
  decode_highEa hfirst hbits q.isLt hop hext (fun _ hw => by rw [extract_eq hw]) haccepted

/-- A row with an own word before the words of the effective address. -/
theorem decode_wordEa {kf : Word → Ea → Except Reject Instr} {i : Instr} {v : Word}
    (hfirst : (Row.ofWordEa 0xFFC0 (BitVec.ofNat 16 bits) allowed kf).FirstFor cfg i.op)
    (hbits : bits &&& 0xFFC0 = bits) (hop : i.op = opword (bits + ea.srcBits))
    (hext : i.ext = v :: ea.encode .long) (hk : kf v ea = .ok i)
    (hmode : allowed ea.field.mode = true) :
    decodeWords cfg (encode i ++ rest) = .ok (i, rest) := by
  have hlow := bits_clear (j := 0) (k := 6) hbits (by decide)
  have hea := ea.srcBits_lt
  have hsrc : i.op.srcField = some ea.field := by
    refine srcField_eq ?_
    rw [hop, opword, BitVec.toNat_ofNat]
    omega
  have hbuild : (Row.ofWordEa 0xFFC0 (BitVec.ofNat 16 bits) allowed kf).build cfg i.op =
      some (.wordEa ea.field kf) := by
    simp [Row.ofWordEa, hsrc, hmode]
  refine hfirst.decode ?_ hbuild ?_
  · rw [hop]
    exact opword_low_matches 6 hbits (by decide) hea
  · simp only [hext, List.cons_append, Form.complete, complete_encode (Ea.fits_long ea), hk]

/-! ## MOVE -/

theorem Ea.dstBits_add_srcBits_lt (dst src : Ea) : dst.dstBits + src.srcBits < 2 ^ 12 := by
  have hmode := dst.modeBits_lt
  have hreg := dst.regBits_lt
  have hsrc := src.srcBits_lt
  rw [Ea.dstBits]
  omega

theorem moveWord_fields (hbits : bits &&& 0xF000 = bits) (src dst : Ea) :
    (opword (bits + dst.dstBits + src.srcBits)).srcField = some src.field ∧
      (opword (bits + dst.dstBits + src.srcBits)).dstField = some dst.field := by
  have hlow := bits_clear (j := 0) (k := 12) hbits (by decide)
  have hmode := dst.modeBits_lt
  have hreg := dst.regBits_lt
  have hsrc := src.srcBits_lt
  rw [Ea.dstBits]
  refine ⟨srcField_eq ?_, dstField_eq ?_ ?_⟩ <;> rw [opword, BitVec.toNat_ofNat] <;> omega

theorem decode_move {src dst : Ea} (mk : Ea → Ea → Instr)
    (hfirst : (Row.ofMove (BitVec.ofNat 16 bits) sz allowed mk).FirstFor cfg (mk src dst).op)
    (hbits : bits &&& 0xF000 = bits)
    (hop : (mk src dst).op = opword (bits + dst.dstBits + src.srcBits))
    (hext : (mk src dst).ext = src.encode sz ++ dst.encode sz)
    (haccepted : src.Accepted sz allowed) (hdst : dst.isDataAlterable = true)
    (hpair : moveCombination src dst = true) :
    decodeWords cfg (encode (mk src dst) ++ rest) = .ok (mk src dst, rest) := by
  obtain ⟨hmode, hfits⟩ := haccepted
  obtain ⟨hs, hd⟩ := moveWord_fields hbits src dst
  rw [← hop] at hs hd
  have hbuild : (Row.ofMove (BitVec.ofNat 16 bits) sz allowed mk).build cfg (mk src dst).op =
      some (.move sz src.field dst.field mk) := by
    simp [Row.ofMove, hs, hd, hmode, Ea.field_isDataAlterable, hdst, field_combines, hpair]
  refine hfirst.decode ?_ hbuild ?_
  · rw [hop, Nat.add_assoc]
    exact opword_low_matches 12 hbits (by decide) (dst.dstBits_add_srcBits_lt src)
  · simp only [hext, List.append_assoc, Form.complete, complete_encode hfits,
      complete_encode (Ea.fits_of_isDataAlterable hdst sz)]

/-- MOVEA shares its line with MOVE, whose row accepts no address register as destination (R202). -/
theorem Row.FirstFor.of_movea {row : Row} {mk : Ea → Ea → Instr} {moveBits w : Word} (line : Nat)
    (hrows : rowsOf line = [.ofMove moveBits sz allowed mk, row])
    (hw : w.toNat / 64 % 8 = 1) : row.FirstFor cfg w := by
  refine ⟨line, 1, by rw [hrows]; rfl, fun _ r hr hr' => ?_⟩
  obtain rfl : r = .ofMove moveBits sz allowed mk := by simpa [hrows] using hr
  have hdst : w.dstField = some (Ea.an (w.field3 9)).field := dstField_eq rfl hw
  cases hsrc : w.srcField <;> simp [Row.ofMove, hsrc, hdst, Ea.field, EaMode.isDataAlterable]

/-! ## Rows without an effective address -/

theorem long_complete (k : Long → Instr) (v : Long) :
    (Form.long k).complete ([Long.hi v, Long.lo v] ++ rest) = .ok (k v, rest) := by
  simp only [List.cons_append, List.nil_append, Form.complete, Long.hi_append_lo]

/-- A row with a register in bits 2-0. -/
theorem decode_reg {n : RegNum} (mk : RegNum → Form) {i : Instr}
    (hfirst : (Row.plain 0xFFF8 (BitVec.ofNat 16 bits) fun w => mk (w.field3 0)).FirstFor cfg i.op)
    (hbits : bits &&& 0xFFF8 = bits) (hop : i.op = opword (bits + n.val))
    (hform : (mk n).complete (i.ext ++ rest) = .ok (i, rest)) :
    decodeWords cfg (encode i ++ rest) = .ok (i, rest) := by
  have hlow := bits_clear (j := 0) (k := 3) hbits (by decide)
  have hn := n.isLt
  have hfield : i.op.field3 0 = n := field3_eq (by rw [hop, opword, BitVec.toNat_ofNat]; omega)
  refine hfirst.decode ?_ (congrArg (fun n => some (mk n)) hfield) hform
  rw [hop]
  exact opword_low_matches 3 hbits (by decide) hn

/-- A row with a field in bits 11-9 and a register in bits 2-0, and no extension words. -/
theorem decode_highReg {a : Nat} {n : RegNum} {kf : Word → Form} {i : Instr}
    (hfirst : (Row.plain 0xF1F8 (BitVec.ofNat 16 bits) kf).FirstFor cfg i.op)
    (hbits : bits &&& 0xF1F8 = bits) (ha : a < 8) (hop : i.op = opword (bits + a * 512 + n.val))
    (hext : i.ext = [])
    (hk : ∀ w : Word, w.toNat / 2 ^ 9 % 8 = a → w.field3 0 = n → kf w = .done i) :
    decodeWords cfg (encode i ++ rest) = .ok (i, rest) := by
  have hlow := bits_clear (j := 0) (k := 3) hbits (by decide)
  have hhigh := bits_clear (j := 9) (k := 3) hbits (by decide)
  have hn := n.isLt
  have hfield : i.op.field3 0 = n := field3_eq (by rw [hop, opword, BitVec.toNat_ofNat]; omega)
  have hform : kf i.op = .done i := hk _ (by rw [hop, opword, BitVec.toNat_ofNat]; omega) hfield
  refine hfirst.decode ?_ (congrArg some hform) (by rw [hext]; rfl)
  rw [hop]
  exact opword_high_low_matches 3 hbits (by decide) (by decide) ha hn (by decide)

theorem decode_regReg {c n : RegNum} (mk : RegNum → RegNum → Instr)
    (hfirst : (Row.plain 0xF1F8 (BitVec.ofNat 16 bits)
      fun w => .done (mk (w.field3 9) (w.field3 0))).FirstFor cfg (mk c n).op)
    (hbits : bits &&& 0xF1F8 = bits) (hop : (mk c n).op = opword (bits + c.val * 512 + n.val))
    (hext : (mk c n).ext = []) : decodeWords cfg (encode (mk c n) ++ rest) = .ok (mk c n, rest) :=
  decode_highReg hfirst hbits c.isLt hop hext fun _ hc hn => by rw [field3_eq hc, hn]

theorem decode_quickReg {q : BitVec 3} {n : RegNum} (mk : BitVec 3 → RegNum → Instr)
    (hfirst : (Row.plain 0xF1F8 (BitVec.ofNat 16 bits)
      fun w => .done (mk (w.extractLsb' 9 3) (w.field3 0))).FirstFor cfg (mk q n).op)
    (hbits : bits &&& 0xF1F8 = bits) (hop : (mk q n).op = opword (bits + q.toNat * 512 + n.val))
    (hext : (mk q n).ext = []) : decodeWords cfg (encode (mk q n) ++ rest) = .ok (mk q n, rest) :=
  decode_highReg hfirst hbits q.isLt hop hext fun _ hq hn => by rw [extract_eq hq, hn]

/-- SUBX and ADDX share their words with SUB and ADD to memory, which accept no data register
(41_integer_arithmetic R235, R252). -/
theorem Row.FirstFor.of_subx {row r0 r2 : Row} {bits w : Word} {kf : Word → Ea → Instr}
    (line : Nat)
    (hrows : rowsOf line = [r0, .ofEa 0xF1C0 bits .long EaMode.isMemoryAlterable kf, r2, row])
    (h0 : r0.apart row = true) (h2 : r2.apart row = true) (hw : w.toNat % 64 < 8) :
    row.FirstFor cfg w := by
  have hsrc : w.srcField = some (Ea.dn (w.field3 0)).field := by
    refine srcField_eq ?_
    simp only [Ea.srcBits, Ea.modeBits, Ea.regBits, Word.field3, Fin.val_ofNat]
    omega
  refine ⟨line, 3, by rw [hrows]; rfl, fun hw' => ?_⟩
  rw [hrows]
  refine List.forall_mem_cons.2 ⟨Row.rejects_of_apart h0 hw' cfg, List.forall_mem_cons.2
    ⟨fun _ => ?_, List.forall_mem_cons.2 ⟨Row.rejects_of_apart h2 hw' cfg, by simp⟩⟩⟩
  simp [Row.ofEa, hsrc, Ea.field, EaMode.isMemoryAlterable]

/-- A row of one operation word. -/
theorem decode_fixed {i : Instr} {form : Form}
    (hfirst : (Row.plain 0xFFFF (BitVec.ofNat 16 bits) fun _ => form).FirstFor cfg i.op)
    (hbits : bits &&& 0xFFFF = bits) (hop : i.op = opword bits)
    (hform : form.complete (i.ext ++ rest) = .ok (i, rest)) :
    decodeWords cfg (encode i ++ rest) = .ok (i, rest) := by
  refine hfirst.decode ?_ rfl hform
  rw [hop]
  exact opword_low_matches (b := 0) 0 hbits (Nat.mod_one _) Nat.one_pos

theorem decode_trap (v : BitVec 4) :
    decodeWords cfg (encode (.trap v) ++ rest) = .ok (.trap v, rest) := by
  have hv := v.isLt
  have hfield : (Instr.op (.trap v)).extractLsb' 0 4 = v := by
    refine extract_eq ?_
    rw [Instr.op, opword, BitVec.toNat_ofNat]
    omega
  exact Row.FirstFor.decode (.of_apart 4 23 rfl rfl)
    (opword_low_matches (bits := 0x4E40) (mask := 0xFFF0) 4 (by decide) (by decide) hv)
    (congrArg (fun v => some (Form.done (.trap v))) hfield) rfl

theorem decode_moveq (v : Byte) (n : RegNum) :
    decodeWords cfg (encode (.moveq v n) ++ rest) = .ok (.moveq v n, rest) := by
  have hv := v.isLt
  have hn := n.isLt
  have hw : (Instr.op (.moveq v n)).toNat = 0x7000 + n.val * 512 + v.toNat :=
    opword_toNat (by omega)
  have hvalue : (Instr.op (.moveq v n)).extractLsb' 0 8 = v := extract_eq (by omega)
  have hreg : (Instr.op (.moveq v n)).field3 9 = n := field3_eq (by omega)
  refine Row.FirstFor.decode (.of_apart 7 0 rfl rfl)
    (opword_high_low_matches (bits := 0x7000) (mask := 0xF100) 8 (by decide) (by decide)
      (by decide) hn hv (by decide)) (form := .done (.moveq v n)) ?_ rfl
  simp only [Row.plain, hvalue, hreg]

/-- A row of a branch: a displacement in the operation word, or $00 there and a word of its own
(45_program_control R331). -/
theorem decode_branch {d : Disp} (mk : Disp → Instr)
    (hfirst : (Row.ofBranch (BitVec.ofNat 16 bits) mk).FirstFor cfg (mk d).op)
    (hbits : bits &&& 0xFF00 = bits) (hop : (mk d).op = opword (bits + d.bits))
    (hext : (mk d).ext = d.encode) (hwf : d.wf = true) :
    decodeWords cfg (encode (mk d) ++ rest) = .ok (mk d, rest) := by
  have hlow := bits_clear (j := 0) (k := 8) hbits (by decide)
  cases d with
  | byte d8 =>
    have hd := d8.isLt
    have hfield : (mk (.byte d8)).op.extractLsb' 0 8 = d8 := by
      refine extract_eq ?_
      rw [hop, opword, BitVec.toNat_ofNat, Disp.bits]
      omega
    have hd0 : d8 ≠ 0 := bne_iff_ne.1 hwf
    refine hfirst.decode ?_ (form := .done (mk (.byte d8))) ?_ (by rw [hext]; rfl)
    · rw [hop]
      exact opword_low_matches 8 hbits (by decide) hd
    · simp only [Row.ofBranch, hfield, if_neg hd0]
  | word d16 =>
    have hfield : (mk (.word d16)).op.extractLsb' 0 8 = 0 := by
      refine extract_eq ?_
      rw [hop, opword, BitVec.toNat_ofNat]
      exact show (bits + 0) % 2 ^ 16 / 2 ^ 0 % 2 ^ 8 = 0 by omega
    refine hfirst.decode ?_ (form := .word fun d => mk (.word d)) ?_ (by rw [hext]; rfl)
    · rw [hop]
      exact opword_low_matches (b := 0) 8 hbits (by decide) (by decide)
    · simp only [Row.ofBranch, hfield, if_true]

/-- A row of TRAPF: as many operand words as the chip's map says (45_program_control R341). -/
theorem decode_trapf {count : TrapfMap → Fin 3} {o : TrapfOperand} (mk : TrapfOperand → Instr)
    (hfirst : (Row.ofTrapf (BitVec.ofNat 16 bits) count mk).FirstFor cfg (mk o).op)
    (hbits : bits &&& 0xFFFF = bits) (hop : (mk o).op = opword bits) (hext : (mk o).ext = o.encode)
    (hcount : o.count = (count cfg.trapfMap).val) :
    decodeWords cfg (encode (mk o) ++ rest) = .ok (mk o, rest) := by
  have hw : (mk o).op &&& 0xFFFF = BitVec.ofNat 16 bits := by
    rw [hop]
    exact opword_low_matches (b := 0) 0 hbits (Nat.mod_one _) Nat.one_pos
  cases o with
  | none =>
    have hc : count cfg.trapfMap = 0 := Fin.ext hcount.symm
    refine hfirst.decode hw (form := .done (mk .none)) ?_ (by rw [hext]; rfl)
    simp only [Row.ofTrapf, hc]
  | word v =>
    have hc : count cfg.trapfMap = 1 := Fin.ext hcount.symm
    refine hfirst.decode hw (form := .word fun v => mk (.word v)) ?_ (by rw [hext]; rfl)
    simp only [Row.ofTrapf, hc]
  | long v =>
    have hc : count cfg.trapfMap = 2 := Fin.ext hcount.symm
    refine hfirst.decode hw (form := .long fun v => mk (.long v)) ?_ ?_
    · simp only [Row.ofTrapf, hc]
    · rw [hext]
      exact long_complete (fun v => mk (.long v)) v

end Kinds

end Sys2Proof

/-! The words that are decoded outside the table: the two illegal instructions, line A, and line F
but for the debug words (30_encoding R105, R106). -/

namespace Sys2Proof

/-! ## The debug words of line F -/

/-- Bits 15-6 of a word as a number. -/
theorem and_mask_high_iff {w : Word} {bits : Nat} (hbits : bits &&& 0xFFC0 = bits) :
    w &&& 0xFFC0 = BitVec.ofNat 16 bits ↔ w.toNat / 64 * 64 = bits := by
  have hw := w.isLt
  constructor
  · intro h
    have hmask : (0xFFC0 : Word).extractLsb' 6 10 = BitVec.allOnes 10 := by decide
    have hhigh := congrArg BitVec.toNat (extract_of_matches
      (row := ⟨0xFFC0, BitVec.ofNat 16 bits, fun _ _ => none⟩) h hmask)
    have hlow := bits_clear (j := 0) (k := 6) hbits (by decide)
    have hlt : bits < 65536 := hbits ▸ Nat.and_le_right.trans_lt (by decide)
    simp only [BitVec.extractLsb'_toNat, Nat.shiftRight_eq_div_pow, BitVec.toNat_ofNat] at hhigh
    omega
  · rintro rfl
    have hmatch := opword_low_matches 6 hbits (by decide) (Nat.mod_lt w.toNat (by decide))
    rwa [show w.toNat / 64 * 64 + w.toNat % 2 ^ 6 = w.toNat by omega, opword, BitVec.ofNat_toNat,
      BitVec.setWidth_eq] at hmatch

/-- The operation word has an effective address field in one of these modes. -/
def Word.hasMode (w : Word) (allowed : EaMode → Bool) : Bool :=
  w.srcField.any fun f => allowed f.mode

theorem Row.ofEa_rejects_iff {mask bits w : Word} {sz : Size} {allowed : EaMode → Bool}
    {kf : Word → Ea → Instr} {cfg : Config} :
    (Row.ofEa mask bits sz allowed kf).Rejects cfg w ↔
      ¬ (w &&& mask = bits ∧ Word.hasMode w allowed = true) := by
  cases h : w.srcField <;> simp [Row.Rejects, Row.ofEa, Word.hasMode, h]

theorem Row.ofWordEa_rejects_iff {mask bits w : Word} {allowed : EaMode → Bool}
    {kf : Word → Ea → Except Reject Instr} {cfg : Config} :
    (Row.ofWordEa mask bits allowed kf).Rejects cfg w ↔
      ¬ (w &&& mask = bits ∧ Word.hasMode w allowed = true) := by
  cases h : w.srcField <;> simp [Row.Rejects, Row.ofWordEa, Word.hasMode, h]

/-- The modes of WDDATA and WDEBUG, by their numbers. -/
theorem eaFieldOf_debug : ∀ mode reg : Fin 8,
    ((eaFieldOf mode reg).any fun f => f.mode.isMemoryAlterable) =
      (2 ≤ mode.val && mode.val ≤ 6 || mode.val == 7 && reg.val ≤ 1) ∧
    ((eaFieldOf mode reg).any fun f => f.mode.isIndOrDisp) = (mode.val == 2 || mode.val == 5) := by
  decide

theorem isDebugWord_eq (w : Word) :
    isDebugWord (w.extractLsb' 0 12) = (w.toNat / 256 % 16 == 11 &&
      if w.toNat / 64 % 4 == 3 then Word.hasMode w EaMode.isIndOrDisp
      else Word.hasMode w EaMode.isMemoryAlterable) := by
  obtain ⟨hmem, hind⟩ := eaFieldOf_debug (w.field3 3) (w.field3 0)
  have hx : (w.extractLsb' 0 12).toNat = w.toNat % 4096 := by
    rw [BitVec.extractLsb'_toNat, Nat.shiftRight_zero]
  have hhigh : w.toNat % 4096 / 256 = w.toNat / 256 % 16 := by omega
  have hsize : w.toNat % 4096 / 64 % 4 = w.toNat / 64 % 4 := by omega
  have hmode : w.toNat % 4096 / 8 % 8 = (w.field3 3).val :=
    show _ = w.toNat / 2 ^ 3 % 8 by omega
  have hreg : w.toNat % 4096 % 8 = (w.field3 0).val := show _ = w.toNat / 2 ^ 0 % 8 by omega
  rw [Word.hasMode, Word.hasMode, Word.srcField, hmem, hind, isDebugWord]
  simp only [hx, hhigh, hsize, hmode, hreg]

/-- The rows of line F accept the words of WDDATA and WDEBUG and no others (46 R370, R371). -/
theorem rowsF_reject_iff {cfg : Config} {w : Word} (hline : w.toNat / 4096 = 15) :
    (∀ row ∈ rowsF, row.Rejects cfg w) ↔ isDebugWord (w.extractLsb' 0 12) = false := by
  have hB : w &&& 0xFFC0 = 0xFB00 ↔ _ := and_mask_high_iff (bits := 0xFB00) (by decide)
  have hW : w &&& 0xFFC0 = 0xFB40 ↔ _ := and_mask_high_iff (bits := 0xFB40) (by decide)
  have hL : w &&& 0xFFC0 = 0xFB80 ↔ _ := and_mask_high_iff (bits := 0xFB80) (by decide)
  have hD : w &&& 0xFFC0 = 0xFBC0 ↔ _ := and_mask_high_iff (bits := 0xFBC0) (by decide)
  rw [isDebugWord_eq]
  simp only [rowsF, List.forall_mem_cons, List.not_mem_nil, IsEmpty.forall_iff, implies_true,
    and_true, Row.ofEa_rejects_iff, Row.ofWordEa_rejects_iff, hB, hW, hL, hD]
  cases Word.hasMode w EaMode.isMemoryAlterable <;> cases Word.hasMode w EaMode.isIndOrDisp <;>
    simp <;> omega

/-! ## Words outside the table -/

theorem ne_of_line {w w' : Word} (h : w.toNat / 4096 ≠ w'.toNat / 4096) : w ≠ w' := by
  rintro rfl
  exact h rfl

theorem decodeOp_lineA (cfg : Config) (x : BitVec 12) :
    decodeOp cfg (0xA#4 ++ x) = .ok (.done (.lineA x)) := by
  have hx := x.isLt
  have hw : (0xA#4 ++ x : Word).toNat = 0xA * 2 ^ 12 + x.toNat := Machine.append_toNat _ _
  have hline : (0xA#4 ++ x : Word).toNat / 4096 = 10 := by omega
  have hfield : (0xA#4 ++ x : Word).extractLsb' 0 12 = x := extract_eq (by omega)
  have h0 : (0xA#4 ++ x : Word) ≠ 0 := ne_of_line (by rw [hline]; decide)
  have h4 : (0xA#4 ++ x : Word) ≠ 0x4AFC := ne_of_line (by rw [hline]; decide)
  simp only [decodeOp, if_neg h0, if_neg h4, hline, if_true, hfield]

theorem decodeOp_lineF {cfg : Config} {x : BitVec 12} (hdebug : isDebugWord x = false)
    (hextra : cfg.flineExtra.contains (0xF#4 ++ x) = false) :
    decodeOp cfg (0xF#4 ++ x) = .ok (.done (.lineF x)) := by
  have hx := x.isLt
  have hw : (0xF#4 ++ x : Word).toNat = 0xF * 2 ^ 12 + x.toNat := Machine.append_toNat _ _
  have hline : (0xF#4 ++ x : Word).toNat / 4096 = 15 := by omega
  have hfield : (0xF#4 ++ x : Word).extractLsb' 0 12 = x := extract_eq (by omega)
  have h0 : (0xF#4 ++ x : Word) ≠ 0 := ne_of_line (by rw [hline]; decide)
  have h4 : (0xF#4 ++ x : Word) ≠ 0x4AFC := ne_of_line (by rw [hline]; decide)
  have hsearch : searchRows cfg (0xF#4 ++ x) (rowsOf 15) = none :=
    searchRows_eq_none_iff.2 ((rowsF_reject_iff hline).2 (hfield.symm ▸ hdebug))
  have hten : ¬ 15 = 10 := by decide
  simp only [decodeOp, if_neg h0, if_neg h4, hline, hsearch, if_neg hten, if_true, hextra,
    Bool.false_eq_true, if_false, hfield]

theorem decodeWords_done {cfg : Config} {w : Word} {i : Instr}
    (h : decodeOp cfg w = .ok (.done i)) (ws : List Word) :
    decodeWords cfg (w :: ws) = .ok (i, ws) := by
  rw [decodeWords, h]
  rfl

/-- Settles O5: the words that are looked at before the table, and those of line F that no row
accepts. -/
theorem exceptionWordsDecode : Obligations.ExceptionWordsDecode :=
  fun cfg ws => ⟨rfl, rfl, fun x => decodeWords_done (decodeOp_lineA cfg x) ws,
    fun _ hdebug hextra => decodeWords_done (decodeOp_lineF hdebug hextra) ws⟩

end Sys2Proof

/-! The decoder reads every instruction back from its encoding (30_encoding R101 to R128). -/

namespace Sys2Proof

/-! ## Own words -/

theorem bitNumber_setWidth (b : Byte) : bitNumber (b.setWidth 16) = b := by
  have hb := b.isLt
  refine extract_eq ?_
  rw [BitVec.toNat_setWidth]
  omega

/-- The own word of MULU.L and MULS.L has the register in bits 14-12, which is what is left of it
beside the bits that tell the two apart (41_integer_arithmetic R243, R245). -/
theorem mulWord_and_mask {bits : Nat} (n : RegNum) (hbits : bits &&& 0x8FFF = bits) :
    BitVec.ofNat 16 (n.val * 4096 + bits) &&& 0x8FFF = BitVec.ofNat 16 bits := by
  rw [Nat.add_comm]
  exact opword_and_mask hbits (field_and_mask (j := 12) (k := 3) n.isLt (by decide))

theorem mulLong_mulu (n : RegNum) (ea : Ea) :
    mulLong (BitVec.ofNat 16 (n.val * 4096)) ea = .ok (.muluL n ea) := by
  have hn := n.isLt
  have hreg : Word.field3 (BitVec.ofNat 16 (n.val * 4096)) 12 = n :=
    field3_eq (by rw [BitVec.toNat_ofNat]; omega)
  have hkind := mulWord_and_mask (bits := 0) n (by decide)
  rw [Nat.add_zero] at hkind
  rw [mulLong, hreg]
  exact if_pos hkind

theorem mulLong_muls (n : RegNum) (ea : Ea) :
    mulLong (BitVec.ofNat 16 (n.val * 4096 + 0x0800)) ea = .ok (.mulsL n ea) := by
  have hn := n.isLt
  have hreg : Word.field3 (BitVec.ofNat 16 (n.val * 4096 + 0x0800)) 12 = n :=
    field3_eq (by rw [BitVec.toNat_ofNat]; omega)
  have hkind : BitVec.ofNat 16 (n.val * 4096 + 0x0800) &&& 0x8FFF = 0x0800 :=
    mulWord_and_mask (bits := 0x0800) n (by decide)
  rw [mulLong, hkind, if_neg (by decide), if_pos rfl, hreg]

theorem Ea.encode_of_isShort {ea : Ea} (h : ea.isShort = true) (sz sz' : Size) :
    ea.encode sz = ea.encode sz' := by
  cases ea with
  | dn | ind | postinc | predec | disp => rfl
  | _ => cases h

/-- The words of a control mode and those of a data register are different. -/
theorem Ea.modeBits_of_isControl {ea : Ea} (h : ea.isControl = true) : ea.modeBits ≠ 0 := by
  cases ea with
  | ind | disp | index | absW | absL | pcDisp | pcIndex => simp [Ea.modeBits]
  | _ => cases h

theorem opword_mode {x : Nat} (ea : Ea) (hx : x % 64 = 0) :
    (opword (x + ea.srcBits)).toNat / 8 % 8 = ea.modeBits := by
  have hmode := ea.modeBits_lt
  have hreg := ea.regBits_lt
  rw [opword, BitVec.toNat_ofNat, Ea.srcBits]
  omega

theorem Ea.modeBits_of_isIndOrDisp {ea : Ea} (h : ea.isIndOrDisp = true) : ea.modeBits ≠ 0 := by
  cases ea with
  | ind | disp => simp [Ea.modeBits]
  | _ => cases h

theorem moveaWord_mode {bits : Nat} (hbits : bits % 512 = 64) (n : RegNum) (ea : Ea) :
    (opword (bits + n.val * 512 + ea.srcBits)).toNat / 64 % 8 = 1 := by
  have hea := ea.srcBits_lt
  rw [opword, BitVec.toNat_ofNat]
  omega

theorem extendedWord_low {bits : Nat} (hbits : bits % 64 = 0) (dst src : RegNum) :
    (opword (bits + dst.val * 512 + src.val)).toNat % 64 < 8 := by
  have hsrc := src.isLt
  rw [opword, BitVec.toNat_ofNat]
  omega

theorem op_lineA (x : BitVec 12) : Instr.op (.lineA x) = 0xA#4 ++ x := by
  have hx := x.isLt
  apply BitVec.eq_of_toNat_eq
  rw [Machine.append_toNat]
  exact opword_toNat (v := 0xA000 + x.toNat) (by omega)

theorem op_lineF (x : BitVec 12) : Instr.op (.lineF x) = 0xF#4 ++ x := by
  have hx := x.isLt
  apply BitVec.eq_of_toNat_eq
  rw [Machine.append_toNat]
  exact opword_toNat (v := 0xF000 + x.toNat) (by omega)

theorem condNumber_eq_code (c : Cond) : Machine.condNumber c = c.code := by
  cases c <;> rfl

theorem op_scc (c : Cond) (n : RegNum) : Instr.op (.scc c n) = Machine.sccWord c n := by
  rw [Machine.sccWord, condNumber_eq_code]
  rfl

theorem decode_bitImm {cfg : Config} {bits : Nat} {b : Byte} {ea : Ea} {rest : List Word}
    (mk : Byte → Ea → Instr)
    (hfirst : (Row.ofWordEa 0xFFC0 (BitVec.ofNat 16 bits) EaMode.isShort
      fun b ea => .ok (mk (bitNumber b) ea)).FirstFor cfg (mk b ea).op)
    (hbits : bits &&& 0xFFC0 = bits) (hop : (mk b ea).op = opword (bits + ea.srcBits))
    (hext : (mk b ea).ext = b.setWidth 16 :: ea.encode .byte) (h : ea.isShort = true) :
    decodeWords cfg (encode (mk b ea) ++ rest) = .ok (mk b ea, rest) :=
  decode_wordEa hfirst hbits hop (by rw [hext, Ea.encode_of_isShort h .byte .long])
    (by rw [bitNumber_setWidth]) ((Ea.field_isShort ea).trans h)

/-! ## Well-formed instructions -/

theorem wf_moveB_iff {cfg : Config} {src dst : Ea} : (Instr.moveB src dst).wf cfg = true ↔
    (src.isData && src.fits .byte) = true ∧ dst.isDataAlterable = true ∧
      moveCombination src dst = true := by
  change (src.isData && src.fits .byte && dst.isDataAlterable && moveCombination src dst) = true ↔ _
  rw [Bool.and_eq_true, Bool.and_eq_true, and_assoc]

theorem wf_moveW_iff {cfg : Config} {src dst : Ea} : (Instr.moveW src dst).wf cfg = true ↔
    src.fits .word = true ∧ dst.isDataAlterable = true ∧ moveCombination src dst = true := by
  change (src.fits .word && dst.isDataAlterable && moveCombination src dst) = true ↔ _
  rw [Bool.and_eq_true, Bool.and_eq_true, and_assoc]

theorem wf_moveL_iff {cfg : Config} {src dst : Ea} : (Instr.moveL src dst).wf cfg = true ↔
    dst.isDataAlterable = true ∧ moveCombination src dst = true :=
  Bool.and_eq_true_iff

theorem wf_lineF_iff {cfg : Config} {x : BitVec 12} : (Instr.lineF x).wf cfg = true ↔
    isDebugWord x = false ∧ cfg.flineExtra.contains (0xF#4 ++ x) = false := by
  change (!isDebugWord x && !cfg.flineExtra.contains (0xF#4 ++ x)) = true ↔ _
  rw [Bool.and_eq_true, Bool.not_eq_true', Bool.not_eq_true']

/-! ## Every constructor -/

/-- Settles O3: each constructor by the row of the table that has its words. The `rfl`s of
`.of_apart line k rfl rfl` find it as row `k` of its line and compare its fixed bits with those of
the rows before it; the others read the fixed bits and the words off the encoder. -/
theorem decodeAfterEncode : Obligations.DecodeAfterEncode := by
  intro cfg i rest h
  cases i with
  -- Line 0
  | ori n v =>
    exact decode_reg (fun n => .long (.ori n)) (.of_apart 0 0 rfl rfl) rfl rfl (long_complete _ v)
  | andi n v =>
    exact decode_reg (fun n => .long (.andi n)) (.of_apart 0 1 rfl rfl) rfl rfl (long_complete _ v)
  | subi n v =>
    exact decode_reg (fun n => .long (.subi n)) (.of_apart 0 2 rfl rfl) rfl rfl (long_complete _ v)
  | addi n v =>
    exact decode_reg (fun n => .long (.addi n)) (.of_apart 0 3 rfl rfl) rfl rfl (long_complete _ v)
  | eori n v =>
    exact decode_reg (fun n => .long (.eori n)) (.of_apart 0 4 rfl rfl) rfl rfl (long_complete _ v)
  | cmpi n v =>
    exact decode_reg (fun n => .long (.cmpi n)) (.of_apart 0 5 rfl rfl) rfl rfl (long_complete _ v)
  | btstDyn r ea =>
    exact decode_regEa .btstDyn (.of_apart 0 6 rfl rfl) rfl rfl rfl (Ea.accepted_data h)
  | bchgDyn r ea =>
    exact decode_regEa .bchgDyn (.of_apart 0 8 rfl rfl) rfl rfl rfl (Ea.accepted_dataAlterable h)
  | bclrDyn r ea =>
    exact decode_regEa .bclrDyn (.of_apart 0 10 rfl rfl) rfl rfl rfl (Ea.accepted_dataAlterable h)
  | bsetDyn r ea =>
    exact decode_regEa .bsetDyn (.of_apart 0 12 rfl rfl) rfl rfl rfl (Ea.accepted_dataAlterable h)
  | btstImm b ea => exact decode_bitImm .btstImm (.of_apart 0 7 rfl rfl) rfl rfl rfl h
  | bchgImm b ea => exact decode_bitImm .bchgImm (.of_apart 0 9 rfl rfl) rfl rfl rfl h
  | bclrImm b ea => exact decode_bitImm .bclrImm (.of_apart 0 11 rfl rfl) rfl rfl rfl h
  | bsetImm b ea => exact decode_bitImm .bsetImm (.of_apart 0 13 rfl rfl) rfl rfl rfl h
  -- Lines 1, 2 and 3
  | moveB src dst =>
    obtain ⟨hsrc, hdst, hpair⟩ := wf_moveB_iff.1 h
    exact decode_move .moveB (.of_apart 1 0 rfl rfl) rfl rfl rfl (Ea.accepted_data hsrc) hdst hpair
  | moveW src dst =>
    obtain ⟨hfits, hdst, hpair⟩ := wf_moveW_iff.1 h
    exact decode_move .moveW (.of_apart 3 0 rfl rfl) rfl rfl rfl (Ea.accepted_any hfits) hdst hpair
  | moveL src dst =>
    obtain ⟨hdst, hpair⟩ := wf_moveL_iff.1 h
    exact decode_move .moveL (.of_apart 2 0 rfl rfl) rfl rfl rfl
      (Ea.accepted_any (Ea.fits_long src)) hdst hpair
  | moveaW src n =>
    exact decode_regEa (fun n ea => .moveaW ea n)
      (.of_movea 3 rfl (moveaWord_mode (by decide) n src)) rfl rfl rfl (Ea.accepted_any h)
  | moveaL src n =>
    exact decode_regEa (fun n ea => .moveaL ea n)
      (.of_movea 2 rfl (moveaWord_mode (by decide) n src)) rfl rfl rfl
      (Ea.accepted_any (Ea.fits_long src))
  -- Line 4
  | negx n => exact decode_reg (fun n => .done (.negx n)) (.of_apart 4 0 rfl rfl) rfl rfl rfl
  | moveFromSr n =>
    exact decode_reg (fun n => .done (.moveFromSr n)) (.of_apart 4 1 rfl rfl) rfl rfl rfl
  | moveFromCcr n =>
    exact decode_reg (fun n => .done (.moveFromCcr n)) (.of_apart 4 5 rfl rfl) rfl rfl rfl
  | neg n => exact decode_reg (fun n => .done (.neg n)) (.of_apart 4 6 rfl rfl) rfl rfl rfl
  | not n => exact decode_reg (fun n => .done (.not n)) (.of_apart 4 8 rfl rfl) rfl rfl rfl
  | extW n => exact decode_reg (fun n => .done (.extW n)) (.of_apart 4 10 rfl rfl) rfl rfl rfl
  | extL n => exact decode_reg (fun n => .done (.extL n)) (.of_apart 4 11 rfl rfl) rfl rfl rfl
  | extbL n => exact decode_reg (fun n => .done (.extbL n)) (.of_apart 4 12 rfl rfl) rfl rfl rfl
  | swap n => exact decode_reg (fun n => .done (.swap n)) (.of_apart 4 13 rfl rfl) rfl rfl rfl
  | unlk n => exact decode_reg (fun n => .done (.unlk n)) (.of_apart 4 25 rfl rfl) rfl rfl rfl
  | link n d => exact decode_reg (fun n => .word (.link n)) (.of_apart 4 24 rfl rfl) rfl rfl rfl
  | clrB ea =>
    exact decode_ea .clrB (.of_apart 4 2 rfl rfl) rfl rfl rfl (Ea.accepted_dataAlterable h)
  | clrW ea =>
    exact decode_ea .clrW (.of_apart 4 3 rfl rfl) rfl rfl rfl (Ea.accepted_dataAlterable h)
  | clrL ea =>
    exact decode_ea .clrL (.of_apart 4 4 rfl rfl) rfl rfl rfl (Ea.accepted_dataAlterable h)
  | moveToCcr ea =>
    exact decode_ea .moveToCcr (.of_apart 4 7 rfl rfl) rfl rfl rfl (Ea.accepted_dnOrImm h)
  | moveToSr ea =>
    exact decode_ea .moveToSr (.of_apart 4 9 rfl rfl) rfl rfl rfl (Ea.accepted_dnOrImm h)
  | pea ea =>
    exact decode_ea .pea
      (.of_mode 4 14 rfl rfl ((opword_mode ea (by decide)).trans_ne (Ea.modeBits_of_isControl h)))
      rfl rfl rfl (Ea.accepted_control h)
  | jsr ea => exact decode_ea .jsr (.of_apart 4 31 rfl rfl) rfl rfl rfl (Ea.accepted_control h)
  | jmp ea => exact decode_ea .jmp (.of_apart 4 32 rfl rfl) rfl rfl rfl (Ea.accepted_control h)
  | lea ea n =>
    exact decode_regEa (fun n ea => .lea ea n)
      (.of_mode 4 33 rfl rfl ((opword_mode ea (by omega)).trans_ne (Ea.modeBits_of_isControl h)))
      rfl rfl rfl (Ea.accepted_control h)
  | movemStore m ea =>
    exact decode_wordEa
      (.of_mode 4 15 rfl rfl ((opword_mode ea (by decide)).trans_ne (Ea.modeBits_of_isIndOrDisp h)))
      rfl rfl rfl rfl ((Ea.field_isIndOrDisp ea).trans h)
  | movemLoad m ea =>
    exact decode_wordEa (.of_apart 4 16 rfl rfl) rfl rfl rfl rfl ((Ea.field_isIndOrDisp ea).trans h)
  | tstB ea => exact decode_ea .tstB (.of_apart 4 17 rfl rfl) rfl rfl rfl (Ea.accepted_data h)
  | tstW ea => exact decode_ea .tstW (.of_apart 4 18 rfl rfl) rfl rfl rfl (Ea.accepted_any h)
  | tstL ea =>
    exact decode_ea .tstL (.of_apart 4 19 rfl rfl) rfl rfl rfl (Ea.accepted_any (Ea.fits_long ea))
  | halt => exact decode_fixed (.of_apart 4 20 rfl rfl) rfl rfl rfl
  | pulse => exact decode_fixed (.of_apart 4 21 rfl rfl) rfl rfl rfl
  | nop => exact decode_fixed (.of_apart 4 26 rfl rfl) rfl rfl rfl
  | rte => exact decode_fixed (.of_apart 4 28 rfl rfl) rfl rfl rfl
  | rts => exact decode_fixed (.of_apart 4 29 rfl rfl) rfl rfl rfl
  | stop v => exact decode_fixed (.of_apart 4 27 rfl rfl) rfl rfl rfl
  | movec r rc =>
    exact decode_fixed (.of_apart 4 30 rfl rfl) rfl rfl
      (congrArg (fun i => Except.ok (i, rest)) (movecOf_encode r rc))
  | illegal4AFC => rfl
  | muluL n ea =>
    exact decode_wordEa (.of_apart 4 22 rfl rfl) rfl rfl rfl (mulLong_mulu n ea)
      ((Ea.field_isShort ea).trans h)
  | mulsL n ea =>
    exact decode_wordEa (.of_apart 4 22 rfl rfl) rfl rfl rfl (mulLong_muls n ea)
      ((Ea.field_isShort ea).trans h)
  | trap v => exact decode_trap v
  -- Lines 5, 6 and 7
  | addq q ea =>
    exact decode_quickEa .addq (.of_apart 5 0 rfl rfl) rfl rfl rfl (Ea.accepted_alterable h)
  | subq q ea =>
    exact decode_quickEa .subq (.of_apart 5 1 rfl rfl) rfl rfl rfl (Ea.accepted_alterable h)
  | scc c n => exact decodeWords_done (op_scc c n ▸ Machine.decodeOp_sccWord cfg c n) rest
  | trapf o => exact decode_trapf .trapf (.of_apart 5 3 rfl rfl) rfl rfl rfl (beq_iff_eq.1 h)
  | trapfW o => exact decode_trapf .trapfW (.of_apart 5 4 rfl rfl) rfl rfl rfl (beq_iff_eq.1 h)
  | trapfL o => exact decode_trapf .trapfL (.of_apart 5 5 rfl rfl) rfl rfl rfl (beq_iff_eq.1 h)
  | bra d => exact decode_branch .bra (.of_apart 6 0 rfl rfl) rfl rfl rfl h
  | bsr d => exact decode_branch .bsr (.of_apart 6 1 rfl rfl) rfl rfl rfl h
  | bhi d => exact decode_branch .bhi (.of_apart 6 2 rfl rfl) rfl rfl rfl h
  | bls d => exact decode_branch .bls (.of_apart 6 3 rfl rfl) rfl rfl rfl h
  | bcc d => exact decode_branch .bcc (.of_apart 6 4 rfl rfl) rfl rfl rfl h
  | bcs d => exact decode_branch .bcs (.of_apart 6 5 rfl rfl) rfl rfl rfl h
  | bne d => exact decode_branch .bne (.of_apart 6 6 rfl rfl) rfl rfl rfl h
  | beq d => exact decode_branch .beq (.of_apart 6 7 rfl rfl) rfl rfl rfl h
  | bvc d => exact decode_branch .bvc (.of_apart 6 8 rfl rfl) rfl rfl rfl h
  | bvs d => exact decode_branch .bvs (.of_apart 6 9 rfl rfl) rfl rfl rfl h
  | bpl d => exact decode_branch .bpl (.of_apart 6 10 rfl rfl) rfl rfl rfl h
  | bmi d => exact decode_branch .bmi (.of_apart 6 11 rfl rfl) rfl rfl rfl h
  | bge d => exact decode_branch .bge (.of_apart 6 12 rfl rfl) rfl rfl rfl h
  | blt d => exact decode_branch .blt (.of_apart 6 13 rfl rfl) rfl rfl rfl h
  | bgt d => exact decode_branch .bgt (.of_apart 6 14 rfl rfl) rfl rfl rfl h
  | ble d => exact decode_branch .ble (.of_apart 6 15 rfl rfl) rfl rfl rfl h
  | moveq v n => exact decode_moveq v n
  -- Lines 8 to D
  | orToDn n ea =>
    exact decode_regEa .orToDn (.of_apart 8 0 rfl rfl) rfl rfl rfl (Ea.accepted_data_long h)
  | orToEa n ea =>
    exact decode_regEa .orToEa (.of_apart 8 1 rfl rfl) rfl rfl rfl (Ea.accepted_memoryAlterable h)
  | subToDn n ea =>
    exact decode_regEa .subToDn (.of_apart 9 0 rfl rfl) rfl rfl rfl
      (Ea.accepted_any (Ea.fits_long ea))
  | subToEa n ea =>
    exact decode_regEa .subToEa (.of_apart 9 1 rfl rfl) rfl rfl rfl (Ea.accepted_memoryAlterable h)
  | suba ea n =>
    exact decode_regEa (fun n ea => .suba ea n) (.of_apart 9 2 rfl rfl) rfl rfl rfl
      (Ea.accepted_any (Ea.fits_long ea))
  | subx src dst =>
    exact decode_regReg (fun dst src => .subx src dst)
      (.of_subx 9 rfl rfl rfl (extendedWord_low rfl dst src)) rfl rfl rfl
  | cmp ea n =>
    exact decode_regEa (fun n ea => .cmp ea n) (.of_apart 11 0 rfl rfl) rfl rfl rfl
      (Ea.accepted_any (Ea.fits_long ea))
  | cmpa ea n =>
    exact decode_regEa (fun n ea => .cmpa ea n) (.of_apart 11 1 rfl rfl) rfl rfl rfl
      (Ea.accepted_any (Ea.fits_long ea))
  | eor n ea =>
    exact decode_regEa .eor (.of_apart 11 2 rfl rfl) rfl rfl rfl (Ea.accepted_dataAlterable h)
  | andToDn n ea =>
    exact decode_regEa .andToDn (.of_apart 12 0 rfl rfl) rfl rfl rfl (Ea.accepted_data_long h)
  | andToEa n ea =>
    exact decode_regEa .andToEa (.of_apart 12 1 rfl rfl) rfl rfl rfl (Ea.accepted_memoryAlterable h)
  | muluW ea n =>
    exact decode_regEa (fun n ea => .muluW ea n) (.of_apart 12 2 rfl rfl) rfl rfl rfl
      (Ea.accepted_data h)
  | mulsW ea n =>
    exact decode_regEa (fun n ea => .mulsW ea n) (.of_apart 12 3 rfl rfl) rfl rfl rfl
      (Ea.accepted_data h)
  | addToDn n ea =>
    exact decode_regEa .addToDn (.of_apart 13 0 rfl rfl) rfl rfl rfl
      (Ea.accepted_any (Ea.fits_long ea))
  | addToEa n ea =>
    exact decode_regEa .addToEa (.of_apart 13 1 rfl rfl) rfl rfl rfl (Ea.accepted_memoryAlterable h)
  | adda ea n =>
    exact decode_regEa (fun n ea => .adda ea n) (.of_apart 13 2 rfl rfl) rfl rfl rfl
      (Ea.accepted_any (Ea.fits_long ea))
  | addx src dst =>
    exact decode_regReg (fun dst src => .addx src dst)
      (.of_subx 13 rfl rfl rfl (extendedWord_low rfl dst src)) rfl rfl rfl
  -- Line E
  | asrImm q n => exact decode_quickReg .asrImm (.of_apart 14 0 rfl rfl) rfl rfl rfl
  | asrReg c n => exact decode_regReg .asrReg (.of_apart 14 1 rfl rfl) rfl rfl rfl
  | aslImm q n => exact decode_quickReg .aslImm (.of_apart 14 2 rfl rfl) rfl rfl rfl
  | aslReg c n => exact decode_regReg .aslReg (.of_apart 14 3 rfl rfl) rfl rfl rfl
  | lsrImm q n => exact decode_quickReg .lsrImm (.of_apart 14 4 rfl rfl) rfl rfl rfl
  | lsrReg c n => exact decode_regReg .lsrReg (.of_apart 14 5 rfl rfl) rfl rfl rfl
  | lslImm q n => exact decode_quickReg .lslImm (.of_apart 14 6 rfl rfl) rfl rfl rfl
  | lslReg c n => exact decode_regReg .lslReg (.of_apart 14 7 rfl rfl) rfl rfl rfl
  -- Line F, line A and $0000
  | wddataB ea =>
    exact decode_ea .wddataB (.of_apart 15 0 rfl rfl) rfl rfl rfl (Ea.accepted_memoryAlterable h)
  | wddataW ea =>
    exact decode_ea .wddataW (.of_apart 15 1 rfl rfl) rfl rfl rfl (Ea.accepted_memoryAlterable h)
  | wddataL ea =>
    exact decode_ea .wddataL (.of_apart 15 2 rfl rfl) rfl rfl rfl (Ea.accepted_memoryAlterable h)
  | wdebug ea =>
    exact decode_wordEa (.of_apart 15 3 rfl rfl) rfl rfl rfl rfl ((Ea.field_isIndOrDisp ea).trans h)
  | illegal0000 => rfl
  | lineA x => exact decodeWords_done (op_lineA x ▸ decodeOp_lineA cfg x) rest
  | lineF x =>
    obtain ⟨hdebug, hextra⟩ := wf_lineF_iff.1 h
    exact decodeWords_done (op_lineF x ▸ decodeOp_lineF hdebug hextra) rest

end Sys2Proof

/-! Sample words of the opcode table (30_encoding R100 to R105). -/

namespace Sys2Proof

/-- The words of an encoding, written as a number, are read as their instruction. -/
theorem decodeTableWord_of_encode {nbits w : Nat} {i : Instr} {rest : List Word}
    (hwords : wordsOfBytes (tableBytes nbits w) = encode i ++ rest)
    (hwf : i.wf .default = true) : decodeTableWord nbits w = some i := by
  rw [decodeTableWord, decodeBytes, hwords, decodeAfterEncode _ i rest hwf]

/-- Settles O2: the words are the encodings of their instructions, which O3 reads back. -/
theorem sampleWordsDecode : Obligations.SampleWordsDecode := by
  unfold Obligations.SampleWordsDecode
  and_intros <;> exact decodeTableWord_of_encode rfl rfl

end Sys2Proof

/-! What the decoder answers is well formed and has the length of its words (30_encoding R102, R103,
R105): each kind of row, the rows of each line, and the words outside the table. -/

namespace Sys2Proof

/-! ## Effective addresses -/

theorem setWidth_toNat_lt {n : Nat} (x : BitVec n) : (x.setWidth 32).toNat < 2 ^ n := by
  rw [BitVec.toNat_setWidth]
  exact (Nat.mod_le _ _).trans_lt x.isLt

/-- An effective address that a field is completed to has the field's mode, fits the size, and has
the words that were taken. -/
theorem complete_sound {f : EaField} {sz : Size} {ws rest : List Word} {ea : Ea}
    (h : f.complete sz ws = some (ea, rest)) :
    ea.field.mode = f.mode ∧ ea.fits sz = true ∧ ws.length = ea.words sz + rest.length := by
  obtain ⟨mode, reg⟩ := f
  cases mode with
  | dn | an | ind | postinc | predec =>
    cases h
    exact ⟨rfl, rfl, (Nat.zero_add _).symm⟩
  | disp | index | absW | pcDisp | pcIndex =>
    cases ws with
    | nil => cases h
    | cons w ws =>
      cases h
      exact ⟨rfl, rfl, Nat.add_comm _ _⟩
  | absL =>
    match ws, h with
    | w :: w' :: ws, h =>
      cases h
      exact ⟨rfl, rfl, Nat.add_comm rest.length 2⟩
  | imm =>
    cases sz with
    | byte | word =>
      cases ws with
      | nil => cases h
      | cons w ws =>
        cases h
        exact ⟨rfl, decide_eq_true (setWidth_toNat_lt _), Nat.add_comm _ _⟩
    | long =>
      match ws, h with
      | w :: w' :: ws, h =>
        cases h
        exact ⟨rfl, rfl, Nat.add_comm rest.length 2⟩

theorem Ea.words_of_isShort {ea : Ea} (h : ea.isShort = true) (sz sz' : Size) :
    ea.words sz = ea.words sz' := by
  cases ea with
  | dn | ind | postinc | predec | disp => rfl
  | _ => cases h

/-! ## Forms -/

/-- The instruction is well formed on the chip and has `n` words after its operation word. -/
def Instr.Takes (i : Instr) (cfg : Config) (n : Nat) : Prop := i.wf cfg = true ∧ i.extWords = n

/-- Whatever words follow, the form gives a well-formed instruction with the words it takes. -/
def Form.Sound (form : Form) (cfg : Config) : Prop :=
  ∀ ws i rest, form.complete ws = .ok (i, rest) →
    i.wf cfg = true ∧ ws.length = i.extWords + rest.length

theorem Instr.Takes.sound {i : Instr} {cfg : Config} {n : Nat} {ws rest : List Word}
    (h : i.Takes cfg n) (hlength : ws.length = n + rest.length) :
    i.wf cfg = true ∧ ws.length = i.extWords + rest.length := by
  obtain ⟨hwf, hwords⟩ := h
  exact ⟨hwf, by rw [hwords, hlength]⟩

theorem Form.Sound.done {cfg : Config} {i : Instr} (h : i.Takes cfg 0) :
    (Form.done i).Sound cfg := by
  intro ws _ rest hc
  cases hc
  exact h.sound (Nat.zero_add _).symm

theorem Form.Sound.word {cfg : Config} {k : Word → Instr} (h : ∀ v, (k v).Takes cfg 1) :
    (Form.word k).Sound cfg := by
  intro ws _ rest hc
  cases ws with
  | nil => cases hc
  | cons w ws =>
    cases hc
    exact (h w).sound (Nat.add_comm _ _)

theorem Form.Sound.long {cfg : Config} {k : Long → Instr} (h : ∀ v, (k v).Takes cfg 2) :
    (Form.long k).Sound cfg := by
  intro ws _ rest hc
  rcases ws with _ | ⟨w, _ | ⟨w', ws⟩⟩ <;> cases hc
  exact (h (w ++ w')).sound (Nat.add_comm rest.length 2)

theorem Form.Sound.ea {cfg : Config} {sz : Size} {f : EaField} {k : Ea → Instr}
    (h : ∀ ea, ea.field.mode = f.mode → ea.fits sz = true → (k ea).Takes cfg (ea.words sz)) :
    (Form.ea sz f k).Sound cfg := by
  intro ws i rest hc
  simp only [Form.complete] at hc
  split at hc
  next ea rest' hea =>
    cases hc
    obtain ⟨hmode, hfits, hlength⟩ := complete_sound hea
    exact (h ea hmode hfits).sound hlength
  next => cases hc

theorem Form.Sound.wordEa {cfg : Config} {f : EaField} {k : Word → Ea → Except Reject Instr}
    (h : ∀ v ea i, ea.field.mode = f.mode → k v ea = .ok i → i.Takes cfg (1 + ea.words .long)) :
    (Form.wordEa f k).Sound cfg := by
  intro ws i rest hc
  cases ws with
  | nil => cases hc
  | cons v ws =>
    simp only [Form.complete] at hc
    split at hc
    next ea rest' hea =>
      obtain ⟨hmode, -, hlength⟩ := complete_sound hea
      split at hc
      next i' hk =>
        cases hc
        refine (h v ea _ hmode hk).sound ?_
        rw [List.length_cons, hlength]
        omega
      next => cases hc
    next => cases hc

theorem Form.Sound.move {cfg : Config} {sz : Size} {src dst : EaField} {k : Ea → Ea → Instr}
    (h : ∀ s d, s.field.mode = src.mode → d.field.mode = dst.mode → s.fits sz = true →
      (k s d).Takes cfg (s.words sz + d.words sz)) : (Form.move sz src dst k).Sound cfg := by
  intro ws i rest hc
  simp only [Form.complete] at hc
  split at hc
  next s ws' hs =>
    obtain ⟨hsmode, hfits, hslength⟩ := complete_sound hs
    split at hc
    next d rest' hd =>
      cases hc
      obtain ⟨hdmode, -, hdlength⟩ := complete_sound hd
      refine (h s d hsmode hdmode hfits).sound ?_
      rw [hslength, hdlength, Nat.add_assoc]
    next => cases hc
  next => cases hc

/-! ## Rows -/

/-- Whatever the row makes of a word is sound. -/
def Row.Sound (row : Row) : Prop :=
  ∀ cfg w form, row.build cfg w = some form → form.Sound cfg

section Kinds

variable {mask bits : Word} {sz : Size} {allowed : EaMode → Bool} {p : Ea → Bool}

theorem Row.Sound.plain {k : Word → Form} (h : ∀ cfg w, (k w).Sound cfg) :
    (Row.plain mask bits k).Sound := by
  intro cfg w form hbuild
  cases hbuild
  exact h cfg w

theorem Row.Sound.done {k : Word → Instr} (h : ∀ cfg w, (k w).Takes cfg 0) :
    (Row.plain mask bits fun w => .done (k w)).Sound :=
  .plain fun cfg w => .done (h cfg w)

theorem Row.Sound.word {k : Word → Word → Instr} (h : ∀ cfg w v, (k w v).Takes cfg 1) :
    (Row.plain mask bits fun w => .word (k w)).Sound :=
  .plain fun cfg w => .word (h cfg w)

theorem Row.Sound.long {k : Word → Long → Instr} (h : ∀ cfg w v, (k w v).Takes cfg 2) :
    (Row.plain mask bits fun w => .long (k w)).Sound :=
  .plain fun cfg w => .long (h cfg w)

theorem Row.Sound.ofEa {k : Word → Ea → Instr} (hp : ∀ ea : Ea, allowed ea.field.mode = p ea)
    (h : ∀ cfg w ea, p ea = true → ea.fits sz = true → (k w ea).Takes cfg (ea.words sz)) :
    (Row.ofEa mask bits sz allowed k).Sound := by
  intro cfg w form hbuild
  simp only [Row.ofEa] at hbuild
  split at hbuild
  next f hf =>
    split_ifs at hbuild with hallowed
    cases hbuild
    exact .ea fun ea hmode hfits => h cfg w ea (by rw [← hp, hmode, hallowed]) hfits
  next => cases hbuild

theorem Row.Sound.ofWordEa {k : Word → Ea → Except Reject Instr}
    (hp : ∀ ea : Ea, allowed ea.field.mode = p ea)
    (h : ∀ cfg v ea i, p ea = true → k v ea = .ok i → i.Takes cfg (1 + ea.words .long)) :
    (Row.ofWordEa mask bits allowed k).Sound := by
  intro cfg w form hbuild
  simp only [Row.ofWordEa] at hbuild
  split at hbuild
  next f hf =>
    split_ifs at hbuild with hallowed
    cases hbuild
    exact .wordEa fun v ea i hmode hk => h cfg v ea i (by rw [← hp, hmode, hallowed]) hk
  next => cases hbuild

theorem Row.Sound.bitImm {k : Byte → Ea → Instr}
    (h : ∀ cfg b ea, ea.isShort = true → (k b ea).Takes cfg (1 + ea.words .byte)) :
    (Row.ofWordEa mask bits EaMode.isShort fun b ea => .ok (k (bitNumber b) ea)).Sound := by
  refine .ofWordEa Ea.field_isShort fun cfg v ea i hshort hk => ?_
  cases hk
  rw [Ea.words_of_isShort hshort .long .byte]
  exact h cfg _ ea hshort

theorem Row.Sound.ofMove {k : Ea → Ea → Instr} (hp : ∀ ea : Ea, allowed ea.field.mode = p ea)
    (h : ∀ cfg src dst, p src = true → src.fits sz = true → dst.isDataAlterable = true →
      moveCombination src dst = true → (k src dst).Takes cfg (src.words sz + dst.words sz)) :
    (Row.ofMove bits sz allowed k).Sound := by
  intro cfg w form hbuild
  simp only [Row.ofMove] at hbuild
  split at hbuild
  next src dst hsrc hdst =>
    split_ifs at hbuild with hmodes
    cases hbuild
    simp only [Bool.and_eq_true] at hmodes
    obtain ⟨⟨hallowed, halterable⟩, hpair⟩ := hmodes
    refine .move fun s d hs hd hfits => h cfg s d ?_ hfits ?_ ?_
    · rw [← hp, hs, hallowed]
    · rw [← Ea.field_isDataAlterable, hd, halterable]
    · rw [← field_combines, hs, hd, hpair]
  next => cases hbuild

theorem Row.Sound.ofBranch {k : Disp → Instr}
    (h : ∀ cfg d, d.wf = true → (k d).Takes cfg d.words) : (Row.ofBranch bits k).Sound := by
  intro cfg w form hbuild
  simp only [Row.ofBranch] at hbuild
  split_ifs at hbuild with hzero
  · cases hbuild
    exact .word fun v => h cfg (.word v) rfl
  · cases hbuild
    exact .done (h cfg (.byte _) (bne_iff_ne.2 hzero))

theorem Row.Sound.ofTrapf {count : TrapfMap → Fin 3} {k : TrapfOperand → Instr}
    (h : ∀ cfg o, o.count = (count cfg.trapfMap).val → (k o).Takes cfg o.count) :
    (Row.ofTrapf bits count k).Sound := by
  intro cfg w form hbuild
  simp only [Row.ofTrapf] at hbuild
  split at hbuild
  next hcount =>
    cases hbuild
    exact .done (h cfg .none (by rw [hcount]; rfl))
  next hcount =>
    cases hbuild
    exact .word fun v => h cfg (.word v) (by rw [hcount]; rfl)
  next hcount =>
    cases hbuild
    exact .long fun v => h cfg (.long v) (by rw [hcount]; rfl)

end Kinds

theorem mulLong_takes {cfg : Config} {v : Word} {ea : Ea} {i : Instr} (h : ea.isShort = true)
    (hk : mulLong v ea = .ok i) : i.Takes cfg (1 + ea.words .long) := by
  unfold mulLong at hk
  split_ifs at hk <;> cases hk <;> exact ⟨h, rfl⟩

theorem wdebugOf_takes {cfg : Config} {v : Word} {ea : Ea} {i : Instr}
    (h : ea.isIndOrDisp = true) (hk : wdebugOf v ea = .ok i) :
    i.Takes cfg (1 + ea.words .long) := by
  unfold wdebugOf at hk
  split_ifs at hk
  cases hk
  exact ⟨h, rfl⟩

/-- Every mode is allowed. -/
theorem anyMode_eq (ea : Ea) : anyMode ea.field.mode = (fun _ => true) ea := rfl

/-! ## The rows of each line -/

theorem rows0_sound : rows0.Forall Row.Sound :=
  ⟨.long fun _ _ _ => ⟨rfl, rfl⟩,
   .long fun _ _ _ => ⟨rfl, rfl⟩,
   .long fun _ _ _ => ⟨rfl, rfl⟩,
   .long fun _ _ _ => ⟨rfl, rfl⟩,
   .long fun _ _ _ => ⟨rfl, rfl⟩,
   .long fun _ _ _ => ⟨rfl, rfl⟩,
   .ofEa Ea.field_isData fun _ _ _ h hf => ⟨Bool.and_eq_true_iff.2 ⟨h, hf⟩, rfl⟩,
   .bitImm fun _ _ _ h => ⟨h, rfl⟩,
   .ofEa Ea.field_isDataAlterable fun _ _ _ h _ => ⟨h, rfl⟩,
   .bitImm fun _ _ _ h => ⟨h, rfl⟩,
   .ofEa Ea.field_isDataAlterable fun _ _ _ h _ => ⟨h, rfl⟩,
   .bitImm fun _ _ _ h => ⟨h, rfl⟩,
   .ofEa Ea.field_isDataAlterable fun _ _ _ h _ => ⟨h, rfl⟩,
   .bitImm fun _ _ _ h => ⟨h, rfl⟩⟩

theorem rows1_sound : rows1.Forall Row.Sound :=
  .ofMove Ea.field_isData fun _ _ _ h hf hd hp =>
    ⟨wf_moveB_iff.2 ⟨Bool.and_eq_true_iff.2 ⟨h, hf⟩, hd, hp⟩, rfl⟩

theorem rows2_sound : rows2.Forall Row.Sound :=
  ⟨.ofMove anyMode_eq fun _ _ _ _ _ hd hp => ⟨wf_moveL_iff.2 ⟨hd, hp⟩, rfl⟩,
   .ofEa anyMode_eq fun _ _ _ _ _ => ⟨rfl, rfl⟩⟩

theorem rows3_sound : rows3.Forall Row.Sound :=
  ⟨.ofMove anyMode_eq fun _ _ _ _ hf hd hp => ⟨wf_moveW_iff.2 ⟨hf, hd, hp⟩, rfl⟩,
   .ofEa anyMode_eq fun _ _ _ _ hf => ⟨hf, rfl⟩⟩

theorem rows4_sound : rows4.Forall Row.Sound :=
  ⟨.done fun _ _ => ⟨rfl, rfl⟩,
   .done fun _ _ => ⟨rfl, rfl⟩,
   .ofEa Ea.field_isDataAlterable fun _ _ _ h _ => ⟨h, rfl⟩,
   .ofEa Ea.field_isDataAlterable fun _ _ _ h _ => ⟨h, rfl⟩,
   .ofEa Ea.field_isDataAlterable fun _ _ _ h _ => ⟨h, rfl⟩,
   .done fun _ _ => ⟨rfl, rfl⟩,
   .done fun _ _ => ⟨rfl, rfl⟩,
   .ofEa Ea.field_isDnOrImm fun _ _ _ h hf => ⟨Bool.and_eq_true_iff.2 ⟨h, hf⟩, rfl⟩,
   .done fun _ _ => ⟨rfl, rfl⟩,
   .ofEa Ea.field_isDnOrImm fun _ _ _ h hf => ⟨Bool.and_eq_true_iff.2 ⟨h, hf⟩, rfl⟩,
   .done fun _ _ => ⟨rfl, rfl⟩,
   .done fun _ _ => ⟨rfl, rfl⟩,
   .done fun _ _ => ⟨rfl, rfl⟩,
   .done fun _ _ => ⟨rfl, rfl⟩,
   .ofEa Ea.field_isControl fun _ _ _ h _ => ⟨h, rfl⟩,
   .ofWordEa Ea.field_isIndOrDisp fun _ _ _ _ h hk => by cases hk; exact ⟨h, rfl⟩,
   .ofWordEa Ea.field_isIndOrDisp fun _ _ _ _ h hk => by cases hk; exact ⟨h, rfl⟩,
   .ofEa Ea.field_isData fun _ _ _ h hf => ⟨Bool.and_eq_true_iff.2 ⟨h, hf⟩, rfl⟩,
   .ofEa anyMode_eq fun _ _ _ _ hf => ⟨hf, rfl⟩,
   .ofEa anyMode_eq fun _ _ _ _ _ => ⟨rfl, rfl⟩,
   .done fun _ _ => ⟨rfl, rfl⟩,
   .done fun _ _ => ⟨rfl, rfl⟩,
   .ofWordEa Ea.field_isShort fun _ _ _ _ h hk => mulLong_takes h hk,
   .done fun _ _ => ⟨rfl, rfl⟩,
   .word fun _ _ _ => ⟨rfl, rfl⟩,
   .done fun _ _ => ⟨rfl, rfl⟩,
   .done fun _ _ => ⟨rfl, rfl⟩,
   .word fun _ _ _ => ⟨rfl, rfl⟩,
   .done fun _ _ => ⟨rfl, rfl⟩,
   .done fun _ _ => ⟨rfl, rfl⟩,
   .plain fun _ _ => .word fun _ => ⟨rfl, rfl⟩,
   .ofEa Ea.field_isControl fun _ _ _ h _ => ⟨h, rfl⟩,
   .ofEa Ea.field_isControl fun _ _ _ h _ => ⟨h, rfl⟩,
   .ofEa Ea.field_isControl fun _ _ _ h _ => ⟨h, rfl⟩⟩

theorem rows5_sound : rows5.Forall Row.Sound :=
  ⟨.ofEa Ea.field_isAlterable fun _ _ _ h _ => ⟨h, rfl⟩,
   .ofEa Ea.field_isAlterable fun _ _ _ h _ => ⟨h, rfl⟩,
   .done fun _ _ => ⟨rfl, rfl⟩,
   .ofTrapf fun _ _ h => ⟨beq_iff_eq.2 h, rfl⟩,
   .ofTrapf fun _ _ h => ⟨beq_iff_eq.2 h, rfl⟩,
   .ofTrapf fun _ _ h => ⟨beq_iff_eq.2 h, rfl⟩⟩

theorem rows6_sound : rows6.Forall Row.Sound :=
  ⟨.ofBranch fun _ _ h => ⟨h, rfl⟩,
   .ofBranch fun _ _ h => ⟨h, rfl⟩,
   .ofBranch fun _ _ h => ⟨h, rfl⟩,
   .ofBranch fun _ _ h => ⟨h, rfl⟩,
   .ofBranch fun _ _ h => ⟨h, rfl⟩,
   .ofBranch fun _ _ h => ⟨h, rfl⟩,
   .ofBranch fun _ _ h => ⟨h, rfl⟩,
   .ofBranch fun _ _ h => ⟨h, rfl⟩,
   .ofBranch fun _ _ h => ⟨h, rfl⟩,
   .ofBranch fun _ _ h => ⟨h, rfl⟩,
   .ofBranch fun _ _ h => ⟨h, rfl⟩,
   .ofBranch fun _ _ h => ⟨h, rfl⟩,
   .ofBranch fun _ _ h => ⟨h, rfl⟩,
   .ofBranch fun _ _ h => ⟨h, rfl⟩,
   .ofBranch fun _ _ h => ⟨h, rfl⟩,
   .ofBranch fun _ _ h => ⟨h, rfl⟩⟩

theorem rows7_sound : rows7.Forall Row.Sound :=
  .done fun _ _ => ⟨rfl, rfl⟩

theorem rows8_sound : rows8.Forall Row.Sound :=
  ⟨.ofEa Ea.field_isData fun _ _ _ h _ => ⟨h, rfl⟩,
   .ofEa Ea.field_isMemoryAlterable fun _ _ _ h _ => ⟨h, rfl⟩⟩

theorem rows9_sound : rows9.Forall Row.Sound :=
  ⟨.ofEa anyMode_eq fun _ _ _ _ _ => ⟨rfl, rfl⟩,
   .ofEa Ea.field_isMemoryAlterable fun _ _ _ h _ => ⟨h, rfl⟩,
   .ofEa anyMode_eq fun _ _ _ _ _ => ⟨rfl, rfl⟩,
   .done fun _ _ => ⟨rfl, rfl⟩⟩

theorem rowsB_sound : rowsB.Forall Row.Sound :=
  ⟨.ofEa anyMode_eq fun _ _ _ _ _ => ⟨rfl, rfl⟩,
   .ofEa anyMode_eq fun _ _ _ _ _ => ⟨rfl, rfl⟩,
   .ofEa Ea.field_isDataAlterable fun _ _ _ h _ => ⟨h, rfl⟩⟩

theorem rowsC_sound : rowsC.Forall Row.Sound :=
  ⟨.ofEa Ea.field_isData fun _ _ _ h _ => ⟨h, rfl⟩,
   .ofEa Ea.field_isMemoryAlterable fun _ _ _ h _ => ⟨h, rfl⟩,
   .ofEa Ea.field_isData fun _ _ _ h hf => ⟨Bool.and_eq_true_iff.2 ⟨h, hf⟩, rfl⟩,
   .ofEa Ea.field_isData fun _ _ _ h hf => ⟨Bool.and_eq_true_iff.2 ⟨h, hf⟩, rfl⟩⟩

theorem rowsD_sound : rowsD.Forall Row.Sound :=
  ⟨.ofEa anyMode_eq fun _ _ _ _ _ => ⟨rfl, rfl⟩,
   .ofEa Ea.field_isMemoryAlterable fun _ _ _ h _ => ⟨h, rfl⟩,
   .ofEa anyMode_eq fun _ _ _ _ _ => ⟨rfl, rfl⟩,
   .done fun _ _ => ⟨rfl, rfl⟩⟩

theorem rowsE_sound : rowsE.Forall Row.Sound :=
  ⟨.done fun _ _ => ⟨rfl, rfl⟩,
   .done fun _ _ => ⟨rfl, rfl⟩,
   .done fun _ _ => ⟨rfl, rfl⟩,
   .done fun _ _ => ⟨rfl, rfl⟩,
   .done fun _ _ => ⟨rfl, rfl⟩,
   .done fun _ _ => ⟨rfl, rfl⟩,
   .done fun _ _ => ⟨rfl, rfl⟩,
   .done fun _ _ => ⟨rfl, rfl⟩⟩

theorem rowsF_sound : rowsF.Forall Row.Sound :=
  ⟨.ofEa Ea.field_isMemoryAlterable fun _ _ _ h _ => ⟨h, rfl⟩,
   .ofEa Ea.field_isMemoryAlterable fun _ _ _ h _ => ⟨h, rfl⟩,
   .ofEa Ea.field_isMemoryAlterable fun _ _ _ h _ => ⟨h, rfl⟩,
   .ofWordEa Ea.field_isIndOrDisp fun _ _ _ _ h hk => wdebugOf_takes h hk⟩

theorem rowsOf_sound (line : Nat) : ∀ row ∈ rowsOf line, row.Sound := by
  rw [← List.forall_iff_forall_mem]
  unfold rowsOf
  split
  exacts [rows0_sound, rows1_sound, rows2_sound, rows3_sound, rows4_sound, rows5_sound,
    rows6_sound, rows7_sound, rows8_sound, rows9_sound, rowsB_sound, rowsC_sound, rowsD_sound,
    rowsE_sound, rowsF_sound, trivial]

/-! ## The decoder -/

theorem lineWord_eq {w : Word} {l : BitVec 4} (h : w.toNat / 4096 = l.toNat) :
    l ++ w.extractLsb' 0 12 = w := by
  apply BitVec.eq_of_toNat_eq
  rw [Machine.append_toNat, BitVec.extractLsb'_toNat, Nat.shiftRight_zero, ← h]
  omega

theorem decodeOp_sound {cfg : Config} {w : Word} {form : Form} (h : decodeOp cfg w = .ok form) :
    form.Sound cfg := by
  unfold decodeOp at h
  split at h
  next =>
    cases h
    exact .done ⟨rfl, rfl⟩
  split at h
  next =>
    cases h
    exact .done ⟨rfl, rfl⟩
  dsimp only at h
  split at h
  next =>
    cases h
    exact .done ⟨rfl, rfl⟩
  split at h
  next form' hsearch =>
    cases h
    obtain ⟨row, hrow, -, hbuild⟩ := exists_row_of_searchRows hsearch
    exact rowsOf_sound _ row hrow cfg w _ hbuild
  next hsearch =>
    split_ifs at h with hline hextra
    cases h
    rw [hline] at hsearch
    have hdebug := (rowsF_reject_iff hline).1 (searchRows_eq_none_iff.1 hsearch)
    refine .done ⟨wf_lineF_iff.2 ⟨hdebug, ?_⟩, rfl⟩
    rw [lineWord_eq (l := 0xF#4) hline]
    simpa using hextra

/-- Settles O4: the form of the operation word is sound, and its words follow. -/
theorem decodedIsWellFormed : Obligations.DecodedIsWellFormed := by
  intro cfg ws i rest h
  cases ws with
  | nil => cases h
  | cons w ws =>
    simp only [decodeWords] at h
    split at h
    next => cases h
    next form hform =>
      obtain ⟨hwf, hlength⟩ := decodeOp_sound hform ws i rest h
      exact ⟨hwf, by rw [List.length_cons, hlength]; omega⟩

end Sys2Proof

/-! The refusals of data movement and system control, and MOVE, LEA, PEA, LINK, UNLK and MOVEM where
every access is aligned (40_data_movement R201 to R209, 46_system_control R365, R371). -/

namespace Sys2Proof.Machine

/-! ## The open cases -/

/-- A code that selects a control register is in Table 5-2 (10_state R35). -/
theorem mem_ctrlCodes_of_ctrlRegOf {rc : BitVec 12} {c : CtrlReg} (h : ctrlRegOf rc = some c) :
    (rc, c) ∈ ctrlCodes := by
  have hrc : rc = BitVec.ofNat 12 rc.toNat := by rw [BitVec.ofNat_toNat, BitVec.setWidth_eq]
  unfold ctrlRegOf at h
  split at h
  case h_11 => cases h
  all_goals
    next hcode =>
    cases h
    rw [hrc, hcode]
    decide

theorem ctrlRegOf_eq_none {rc : BitVec 12} (h : (ctrlCodes.all fun p => p.1 != rc) = true) :
    ctrlRegOf rc = none := by
  cases hc : ctrlRegOf rc with
  | none => rfl
  | some c =>
    have hne := List.all_eq_true.1 h _ (mem_ctrlCodes_of_ctrlRegOf hc)
    simp at hne

theorem exec_movec_undefined {r : Reg} {rc : BitVec 12} {s : State} (hs : s.sr.s = true)
    (h : isOpenCase (.movec r rc) s = true) :
    exec (.movec r rc) s = .refused (.movecUndefined rc) := by
  simp only [isOpenCase, Bool.and_eq_true, bne_iff_ne] at h
  obtain ⟨hvbr, hcodes⟩ := h
  have heffect : movecEffect rc (s.reg r) s = .refuse (.movecUndefined rc) := by
    rw [movecEffect, if_neg hvbr, ctrlRegOf_eq_none hcodes]
  change execMovec r rc s = _
  rw [execMovec, supervisorOnly_supervisor hs, andThen_ok, heffect, andThen_refuse, finish_refuse]

theorem exec_wdebug_misaligned {ea : Ea} {s : State} (hs : s.sr.s = true)
    (hea : ea.isIndOrDisp = true) (h : isOpenCase (.wdebug ea) s = true) :
    exec (.wdebug ea) s = .refused .wdebugMisaligned := by
  obtain ⟨hc, hv⟩ := isControl_of_isIndOrDisp hea
  cases ha : eaAddr ea .long s with
  | none => simp [isOpenCase, ha] at h
  | some a =>
    have hmis : misaligned a .long = true := by
      rw [misaligned_eq, decide_eq_true_eq]
      simpa only [isOpenCase, ha, bne_iff_ne, Size.bytes] using h
    change execWdebug ea s = _
    rw [execWdebug, supervisorOnly_supervisor hs, andThen_ok, addrEa_control hc hv ha, andThen_ok,
      if_pos hmis, finish_refuse]

/-- Settles O59: LINK A7 and UNLK A7 by their first test, MOVEC and WDEBUG once supervisor mode has
let them past the privilege check. -/
theorem openCasesAreRefused : Obligations.OpenCasesAreRefused :=
  fun _ => ⟨fun _ => rfl, rfl, fun _ _ hs h => exec_movec_undefined hs h,
    fun _ hs hea h => exec_wdebug_misaligned hs hea h⟩

/-! ## MOVE to a register -/

theorem moveInstr_ilen (sz : Size) (src dst : Ea) :
    (moveInstr sz src dst).ilen = BitVec.ofNat 32 (2 + 2 * (src.words sz + dst.words sz)) := by
  cases sz <;> rfl

/-- MOVE whose source can be read and whose destination write ends in `t`. -/
theorem exec_moveInstr_written {sz : Size} {src dst : Ea} {s t : State}
    (hsrc : eaReadable src sz s = true) (hstored : storesUpdated src dst = false)
    (hdst : eaIndexValid dst = true)
    (hwrite : writeEa dst sz (eaValue src sz s) (eaAfter src sz s) = .ok () t) :
    exec (moveInstr sz src dst) s = .next
      ((t.setSr (moveCcr t.sr (eaValue src sz s) sz)).setPc
        (t.pc + BitVec.ofNat 32 (2 + 2 * (src.words sz + dst.words sz)))) := by
  rw [exec_moveInstr, moveTo, checkIndex_valid hdst, andThen_ok, readEa_readable hsrc, andThen_ok,
    movedValue_of_not_storesUpdated hstored]
  dsimp only
  rw [hwrite, andThen_ok, finish_ok, logic_eq, State.advance, moveInstr_ilen, setSr_pc]

theorem writeEa_dn (n : RegNum) (sz : Size) (v : Long) (s : State) :
    writeEa (.dn n) sz v s = .ok () (s.setD n (replaceLow (s.dreg n) v sz)) := by
  rw [← mergeLow_eq]
  rfl

theorem exec_moveInstr_dn (n : RegNum) {sz : Size} {src : Ea} {s : State}
    (hsrc : eaReadable src sz s = true) :
    exec (moveInstr sz src (.dn n)) s = .next { eaAfter src sz s with
      d := s.d.set n (replaceLow (s.dreg n) (eaValue src sz s) sz)
      sr := moveCcr s.sr (eaValue src sz s) sz
      pc := s.pc + BitVec.ofNat 32 (2 + 2 * src.words sz) } := by
  have hstored : storesUpdated src (.dn n) = false := by cases src <;> rfl
  rw [exec_moveInstr_written hsrc hstored rfl (writeEa_dn ..), setD_sr, setD_pc, eaAfter_dreg,
    eaAfter_sr, eaAfter_pc, State.setD, eaAfter_d]
  rfl

/-- MOVEA whose source can be read: the whole register, and no flag (40_data_movement R202). -/
theorem moveAddress_readable {sz : Size} {src : Ea} {s : State} (n : RegNum) (i : Instr)
    (hsrc : eaReadable src sz s = true) :
    moveAddress sz src n i s = .next { eaAfter src sz s with
      a := (eaAfter src sz s).a.set n (signExtend (eaValue src sz s) sz)
      pc := s.pc + i.ilen } := by
  rw [moveAddress, readEa_readable hsrc, andThen_ok, finish_ok, State.advance, setA_pc, eaAfter_pc]
  rfl

theorem signExtend_word (v : Long) : signExtend v .word = (v.setWidth 16).signExtend 32 := by
  rw [signExtend, BitVec.setWidth_eq_extractLsb' (by decide)]

theorem exec_moveq (v : Byte) (n : RegNum) (s : State) :
    exec (.moveq v n) s = .next { s with
      d := s.d.set n (v.signExtend 32)
      sr := moveCcr s.sr (v.signExtend 32) .long
      pc := s.pc + 2 } := by
  rw [← logic_eq]
  rfl

/-- Settles O15: the source as every readable operand is read, then the register. -/
theorem moveToRegister : Obligations.MoveToRegister := by
  intro s n
  refine ⟨fun sz src hsrc => exec_moveInstr_dn n hsrc, fun src hsrc => ?word,
    fun src hsrc => moveAddress_readable n _ hsrc, fun v => ⟨?moveqWord, exec_moveq v n s⟩⟩
  case word =>
    rw [← signExtend_word]
    exact moveAddress_readable n _ hsrc
  case moveqWord =>
    exact fun cfg ws => decodeAfterEncode cfg (.moveq v n) ws rfl

/-! ## MOVE to memory -/

/-- Settles O16: the destination's address is formed in the state that reading the source left. -/
theorem moveToMemory : Obligations.MoveToMemory := by
  intro s sz src dst a hsrc hstored hdst ha hal
  obtain ⟨regs, hafter⟩ := eaAfter_eq src sz s
  have hal' : aligned a sz (eaAfter src sz s) = true := by rw [eaAfter_aligned, hal]
  obtain ⟨t, ht, hwrite⟩ := writeEa_stored (eaValue src sz s) hdst ha hal'
  have ht' := ht.with_a_draws s.a s.draws
  rw [hafter] at ht'
  refine ⟨_, ht', ?_⟩
  rw [exec_moveInstr_written hsrc hstored hdst hwrite, ht.rest, hafter]
  rfl

/-! ## LEA, PEA, LINK, UNLK -/

theorem exec_lea {ea : Ea} (n : RegNum) {s : State} {a : Long} (hc : ea.isControl = true)
    (hv : eaIndexValid ea = true) (ha : eaAddr ea .long s = some a) :
    exec (.lea ea n) s = .next { s with
      a := s.a.set n a
      pc := s.pc + BitVec.ofNat 32 (2 + 2 * ea.words .long) } := by
  change execLea ea n s = _
  rw [execLea, addrEa_control hc hv ha]
  rfl

/-- A push that is not misaligned: the long word below the stack pointer, which moves to it. -/
theorem push_stored {s : State} (v : Long) (h : aligned (s.sp - 4) .long s = true) :
    ∃ t, Stored (s.sp - 4) .long v s t ∧
      push v s = .ok () { t with a := s.a.set 7 (s.sp - 4) } := by
  obtain ⟨hstore, -⟩ := stores (s.sp - 4) .long v (s.setSp (s.sp - 4))
  obtain ⟨t, ht, hwrite⟩ := hstore h
  refine ⟨_, ht.with_a_draws s.a s.draws, ?_⟩
  rw [push, hwrite, ht.rest]
  rfl

theorem exec_pea {ea : Ea} {s : State} {a : Long} (hc : ea.isControl = true)
    (hv : eaIndexValid ea = true) (ha : eaAddr ea .long s = some a)
    (hal : aligned (s.sp - 4) .long s = true) :
    ∃ t, Stored (s.sp - 4) .long a s t ∧ exec (.pea ea) s = .next { t with
      a := s.a.set 7 (s.sp - 4)
      pc := s.pc + BitVec.ofNat 32 (2 + 2 * ea.words .long) } := by
  obtain ⟨t, ht, hpush⟩ := push_stored a hal
  refine ⟨t, ht, ?_⟩
  change execPea ea s = _
  rw [execPea, addrEa_control hc hv ha, andThen_ok, hpush, ht.rest]
  rfl

/-- The register of LINK and UNLK is not A7, so the order of the two register writes is free, and
the later of two writes of A7 stays. -/
theorem set_sp_set_set_sp {n : RegNum} (hn : n ≠ 7) (regs : Vector Long 8) (x y z : Long) :
    ((regs.set 7 x).set n y).set 7 z = (regs.set n y).set 7 z := by
  have hne : (n : Nat) ≠ 7 := fun h => hn (Fin.ext h)
  rw [Vector.set_comm _ _ hne.symm, Vector.set_set]

theorem exec_link {n : RegNum} (d : Word) {s : State} (hn : n ≠ 7)
    (hal : aligned (s.sp - 4) .long s = true) :
    ∃ t, Stored (s.sp - 4) .long (s.areg n) s t ∧ exec (.link n d) s = .next { t with
      a := (s.a.set n (s.sp - 4)).set 7 (s.sp - 4 + d.signExtend 32)
      pc := s.pc + 4 } := by
  obtain ⟨t, ht, hpush⟩ := push_stored (s.areg n) hal
  have hsp : State.sp { t with a := s.a.set 7 (s.sp - 4) } = s.sp - 4 :=
    setSp_sp { t with a := s.a } (s.sp - 4)
  refine ⟨t, ht, ?_⟩
  change execLink n d s = _
  rw [execLink, if_neg hn, hpush, andThen_ok, finish_ok, hsp, ← set_sp_set_set_sp hn, ht.rest]
  rfl

theorem exec_unlk {n : RegNum} {s : State} (hn : n ≠ 7)
    (h : readable (s.areg n) .long s = true) :
    exec (.unlk n) s = .next { s with
      a := (s.a.set n (s.mem.read (s.areg n) .long)).set 7 (s.areg n + 4)
      pc := s.pc + 2 } := by
  change execUnlk n s = _
  rw [execUnlk, if_neg hn, readMem_ok _ _ (s.setSp (s.areg n)) h, andThen_ok, finish_ok, setSp_sp,
    ← set_sp_set_set_sp hn]
  rfl

/-- Settles O18: the address formed, the long word pushed or read, then the registers. -/
theorem addressAndFrameInstructions : Obligations.AddressAndFrameInstructions :=
  fun _ => ⟨fun _ n _ hc hv ha => exec_lea n hc hv ha,
    fun _ _ hc hv ha hal => exec_pea hc hv ha hal,
    fun _ d hn hal => exec_link d hn hal,
    fun _ hn h => exec_unlk hn h⟩

/-! ## MOVEM -/

theorem aligned_add_four {a : Long} {s : State} (h : aligned a .long s = true) :
    aligned (a + 4) .long s = true := by
  simp only [aligned, Bool.or_eq_true, beq_iff_eq, Size.bytes] at h ⊢
  refine h.imp_right fun h => ?_
  rw [BitVec.toNat_add]
  change (a.toNat + 4) % 2 ^ 32 % 4 = 0
  omega

/-- A store changes no register. -/
theorem Stored.reg_eq {a : Long} {sz : Size} {v : Long} {s t : State} (h : Stored a sz v s t) :
    t.reg = s.reg := by
  rw [h.rest]
  rfl

/-- A store changes no alignment and no answer of the memory map. -/
theorem Stored.aligned_eq {a : Long} {sz : Size} {v : Long} {s t : State} (h : Stored a sz v s t)
    (b : Long) (sz' : Size) : aligned b sz' t = aligned b sz' s := by
  rw [h.rest]
  rfl

theorem Stored.writable_eq {a : Long} {sz : Size} {v : Long} {s t : State} (h : Stored a sz v s t)
    (b : Long) (sz' : Size) : writable b sz' t = writable b sz' s := by
  rw [h.rest]
  rfl

theorem StoredLongs.pc_eq {vs : List Long} {a : Long} {s t : State} (h : StoredLongs a s t vs) :
    t.pc = s.pc := by
  induction vs generalizing a s with
  | nil => rw [StoredLongs] at h; rw [h]
  | cons v vs ih =>
    obtain ⟨u, hu, ht⟩ := h
    rw [ih ht, hu.rest]

/-- Stores that all complete leave every long word in memory and no error pending. -/
theorem StoredLongs.completes {vs : List Long} {a : Long} {s t : State} (h : StoredLongs a s t vs)
    (hw : ∀ k, k < vs.length → writable (a + BitVec.ofNat 32 (4 * k)) .long s = true) :
    t.mem = storeLongs s.mem a vs ∧ t.writeBuffer = s.writeBuffer := by
  induction vs generalizing a s with
  | nil =>
    rw [StoredLongs] at h
    subst h
    exact ⟨rfl, rfl⟩
  | cons v vs ih =>
    obtain ⟨u, hu, ht⟩ := h
    have hfirst : writable a .long s = true := by simpa using hw 0 (Nat.succ_pos _)
    have hrest (k : Nat) (hk : k < vs.length) :
        writable (a + 4 + BitVec.ofNat 32 (4 * k)) .long u = true := by
      rw [next_long, hu.writable_eq]
      exact hw (k + 1) (Nat.succ_lt_succ hk)
    obtain ⟨hmem, hbuffer⟩ := hu.completes hfirst
    obtain ⟨hmem', hbuffer'⟩ := ih ht hrest
    rw [hmem', hbuffer', hmem, hbuffer, storeLongs]
    exact ⟨rfl, rfl⟩

/-- The registers of a list are stored one after the other, each as it was at the start. -/
theorem storeRegs_stored {rs : List Reg} {a : Long} {s : State}
    (h : rs = [] ∨ aligned a .long s = true) :
    ∃ t, StoredLongs a s t (rs.map s.reg) ∧ storeRegs rs a s = .ok () t := by
  induction rs generalizing a s with
  | nil => exact ⟨s, rfl, rfl⟩
  | cons r rs ih =>
    have hal := h.resolve_left (List.cons_ne_nil r rs)
    obtain ⟨hstore, -⟩ := stores a .long (s.reg r) s
    obtain ⟨u, hu, hwrite⟩ := hstore hal
    obtain ⟨t, ht, hrest⟩ := ih (.inr ((hu.aligned_eq _ _).trans (aligned_add_four hal)))
    refine ⟨t, ⟨u, hu, ?_⟩, ?_⟩
    · rwa [← hu.reg_eq]
    · rw [storeRegs, hwrite, andThen_ok, hrest]

theorem movem_ilen (mask : Word) (ea : Ea) :
    (Instr.movemStore mask ea).ilen = BitVec.ofNat 32 (4 + 2 * ea.words .long) ∧
      (Instr.movemLoad mask ea).ilen = BitVec.ofNat 32 (4 + 2 * ea.words .long) := by
  have h : 2 + 2 * (1 + ea.words .long) = 4 + 2 * ea.words .long := by omega
  exact ⟨congrArg _ h, congrArg _ h⟩

theorem exec_movemStore_stored {mask : Word} {ea : Ea} {s : State} {a : Long}
    (hea : ea.isIndOrDisp = true) (ha : eaAddr ea .long s = some a)
    (h : maskRegs mask = [] ∨ aligned a .long s = true) :
    ∃ t, StoredLongs a s t ((maskRegs mask).map s.reg) ∧
      exec (.movemStore mask ea) s = .next { t with
        pc := s.pc + BitVec.ofNat 32 (4 + 2 * ea.words .long) } := by
  obtain ⟨hc, hv⟩ := isControl_of_isIndOrDisp hea
  obtain ⟨hlen, -⟩ := movem_ilen mask ea
  obtain ⟨t, ht, hstore⟩ := storeRegs_stored h
  refine ⟨t, ht, ?_⟩
  change execMovemStore mask ea s = _
  rw [execMovemStore, addrEa_control hc hv ha, andThen_ok, selected_eq, hstore, andThen_ok,
    finish_ok, State.advance, hlen, ht.pc_eq]
  rfl

theorem loadLongs_pc (rs : List Reg) (a : Long) (s : State) : (loadLongs a s rs).pc = s.pc := by
  induction rs generalizing a s with
  | nil => rfl
  | cons r rs ih => rw [loadLongs, ih, setReg_pc]

/-- Registers whose long words can all be read are loaded one after the other. -/
theorem loadRegs_readable {rs : List Reg} {a : Long} {s : State}
    (h : ∀ k, k < rs.length → readable (a + BitVec.ofNat 32 (4 * k)) .long s = true) :
    loadRegs rs a s = .ok () (loadLongs a s rs) := by
  induction rs generalizing a s with
  | nil => rfl
  | cons r rs ih =>
    have hfirst : readable a .long s = true := by simpa using h 0 (Nat.succ_pos _)
    have hrest (k : Nat) (hk : k < rs.length) : readable (a + 4 + BitVec.ofNat 32 (4 * k)) .long
        (s.setReg r (s.mem.read a .long)) = true := by
      rw [next_long, setReg_readable]
      exact h (k + 1) (Nat.succ_lt_succ hk)
    rw [loadRegs, readMem_ok _ _ _ hfirst, andThen_ok, ih hrest, loadLongs]

theorem exec_movemLoad_readable {mask : Word} {ea : Ea} {s : State} {a : Long}
    (hea : ea.isIndOrDisp = true) (ha : eaAddr ea .long s = some a)
    (h : ∀ k, k < (maskRegs mask).length →
      readable (a + BitVec.ofNat 32 (4 * k)) .long s = true) :
    exec (.movemLoad mask ea) s = .next { loadLongs a s (maskRegs mask) with
      pc := s.pc + BitVec.ofNat 32 (4 + 2 * ea.words .long) } := by
  obtain ⟨hc, hv⟩ := isControl_of_isIndOrDisp hea
  obtain ⟨-, hlen⟩ := movem_ilen mask ea
  change execMovemLoad mask ea s = _
  rw [execMovemLoad, addrEa_control hc hv ha, andThen_ok, selected_eq, loadRegs_readable h,
    andThen_ok, finish_ok, State.advance, hlen, loadLongs_pc]
  rfl

/-- Settles O19: by induction on the registers of the mask, stored or loaded one after the other. -/
theorem moveMultiple : Obligations.MoveMultiple := by
  intro s mask ea a regs hea ha
  refine ⟨fun h => ?_, exec_movemLoad_readable hea ha⟩
  obtain ⟨t, ht, hexec⟩ := exec_movemStore_stored hea ha h
  exact ⟨t, ht, fun hw => ht.completes (by simpa using hw), hexec⟩

end Sys2Proof.Machine

/-! Integer arithmetic: the operand read, the result and the flags by exact arithmetic, and the
operand in memory that is read and then written (41_integer_arithmetic R230 to R252, 42_logical R270
to R276, 43_shift R296, 45_program_control R342). -/

namespace Sys2Proof.Machine

/-! ## Results and flags -/

theorem plainAdd_r (v d : Long) : (plainAdd v d).r = exactSum v d 0 := addFlags_r v d false

theorem plainSub_r (v d : Long) : (plainSub v d).r = exactDiff v d 0 := subFlags_r v d false

theorem arith_plainAdd (sr : SR) (v d : Long) :
    sr.arith (plainAdd v d) = withX (addCcr sr v d 0) := arith_add_eq sr v d

theorem arith_plainSub (sr : SR) (v d : Long) :
    sr.arith (plainSub v d) = withX (subCcr sr v d 0) := arith_sub_eq sr v d

theorem compare_plainSub (sr : SR) (v d : Long) :
    sr.compare (plainSub v d) = subCcr sr v d 0 := compare_eq sr v d

theorem exactSum_zero (v d : Long) : exactSum v d 0 = d + v := by
  rw [exactSum, Nat.add_zero, BitVec.ofNat_add, BitVec.ofNat_toNat, BitVec.ofNat_toNat,
    BitVec.setWidth_eq, BitVec.setWidth_eq]

theorem exactDiff_zero (v d : Long) : exactDiff v d 0 = d - v := by
  rw [← plainSub_r]
  exact BitVec.sub_zero (d - v)

/-! ## An operand into a data register -/

/-- ADD and SUB to Dn (R230, R231, R248). -/
theorem arithToDn_readable {ea : Ea} {s : State} (f : Long → Long → Sum) (n : RegNum) (i : Instr)
    (h : eaReadable ea .long s = true) :
    arithToDn f ea n i s = .next { eaAfter ea .long s with
      d := s.d.set n (f (eaValue ea .long s) (s.dreg n)).r
      sr := s.sr.arith (f (eaValue ea .long s) (s.dreg n))
      pc := s.pc + i.ilen } := by
  obtain ⟨regs, hafter⟩ := eaAfter_eq ea .long s
  rw [arithToDn, readEa_readable h, hafter]
  rfl

theorem exec_addToDn {ea : Ea} {s : State} (n : RegNum) (h : eaReadable ea .long s = true) :
    exec (.addToDn n ea) s = .next { eaAfter ea .long s with
      d := s.d.set n (exactSum (eaValue ea .long s) (s.dreg n) 0)
      sr := withX (addCcr s.sr (eaValue ea .long s) (s.dreg n) 0)
      pc := s.pc + BitVec.ofNat 32 (2 + 2 * ea.words .long) } := by
  rw [← plainAdd_r, ← arith_plainAdd]
  exact arithToDn_readable plainAdd n _ h

theorem exec_subToDn {ea : Ea} {s : State} (n : RegNum) (h : eaReadable ea .long s = true) :
    exec (.subToDn n ea) s = .next { eaAfter ea .long s with
      d := s.d.set n (exactDiff (eaValue ea .long s) (s.dreg n) 0)
      sr := withX (subCcr s.sr (eaValue ea .long s) (s.dreg n) 0)
      pc := s.pc + BitVec.ofNat 32 (2 + 2 * ea.words .long) } := by
  rw [← plainSub_r, ← arith_plainSub]
  exact arithToDn_readable plainSub n _ h

theorem exec_cmp {ea : Ea} {s : State} (n : RegNum) (h : eaReadable ea .long s = true) :
    exec (.cmp ea n) s = .next { eaAfter ea .long s with
      sr := subCcr s.sr (eaValue ea .long s) (s.dreg n) 0
      pc := s.pc + BitVec.ofNat 32 (2 + 2 * ea.words .long) } := by
  obtain ⟨regs, hafter⟩ := eaAfter_eq ea .long s
  change execCmp ea n s = _
  rw [execCmp, readEa_readable h, ← compare_plainSub, hafter]
  rfl

/-- Settles O20: the operand as every readable operand is read, then the sum or difference. -/
theorem addSubCompareRegister : Obligations.AddSubCompareRegister :=
  fun _ _ n h => ⟨exec_addToDn n h, exec_subToDn n h, exec_cmp n h⟩

/-! ## Immediate, quick and extended forms on a data register -/

/-- ADDI and SUBI (R233, R250). -/
theorem arithImm_eq (f : Long → Long → Sum) (n : RegNum) (v : Long) (i : Instr) (s : State) :
    arithImm f n v i s = .next { s with
      d := s.d.set n (f v (s.dreg n)).r
      sr := s.sr.arith (f v (s.dreg n))
      pc := s.pc + i.ilen } := rfl

/-- ADDX, SUBX and NEGX (R235, R247, R252). -/
theorem arithX_eq (f : Long → Long → Bool → Sum) (v d : Long) (n : RegNum) (i : Instr)
    (s : State) :
    arithX f v d n i s = .next { s with
      d := s.d.set n (f v d s.sr.x).r
      sr := s.sr.arithX (f v d s.sr.x)
      pc := s.pc + i.ilen } := rfl

/-- Reading and writing a data register of 32 bits needs no access that can fail. -/
theorem modifyEa_dn (n : RegNum) (f : Long → SR → Long × SR) (s : State) :
    modifyEa (.dn n) .long f s = .ok () { s with
      d := s.d.set n (f (s.dreg n) s.sr).1
      sr := (f (s.dreg n) s.sr).2 } := rfl

/-- ADDQ and SUBQ on Dn (R234, R251). -/
theorem arithToEa_dn (f : Long → Long → Sum) (v : Long) (n : RegNum) (i : Instr) (s : State) :
    arithToEa f v (.dn n) i s = .next { s with
      d := s.d.set n (f v (s.dreg n)).r
      sr := s.sr.arith (f v (s.dreg n))
      pc := s.pc + i.ilen } := by
  rw [arithToEa, modifyEa_dn]
  rfl

theorem exec_addq_dn (q : BitVec 3) (n : RegNum) (s : State) :
    exec (.addq q (.dn n)) s = .next { s with
      d := s.d.set n (exactSum (BitVec.ofNat 32 (quickValue q)) (s.dreg n) 0)
      sr := withX (addCcr s.sr (BitVec.ofNat 32 (quickValue q)) (s.dreg n) 0)
      pc := s.pc + 2 } := by
  rw [← plainAdd_r, ← arith_plainAdd]
  exact arithToEa_dn plainAdd _ n _ s

theorem exec_subq_dn (q : BitVec 3) (n : RegNum) (s : State) :
    exec (.subq q (.dn n)) s = .next { s with
      d := s.d.set n (exactDiff (BitVec.ofNat 32 (quickValue q)) (s.dreg n) 0)
      sr := withX (subCcr s.sr (BitVec.ofNat 32 (quickValue q)) (s.dreg n) 0)
      pc := s.pc + 2 } := by
  rw [← plainSub_r, ← arith_plainSub]
  exact arithToEa_dn plainSub _ n _ s

theorem exec_addi (n : RegNum) (v : Long) (s : State) :
    exec (.addi n v) s = .next { s with
      d := s.d.set n (exactSum v (s.dreg n) 0)
      sr := withX (addCcr s.sr v (s.dreg n) 0)
      pc := s.pc + 6 } := by
  rw [← plainAdd_r, ← arith_plainAdd]
  exact arithImm_eq plainAdd n v _ s

theorem exec_subi (n : RegNum) (v : Long) (s : State) :
    exec (.subi n v) s = .next { s with
      d := s.d.set n (exactDiff v (s.dreg n) 0)
      sr := withX (subCcr s.sr v (s.dreg n) 0)
      pc := s.pc + 6 } := by
  rw [← plainSub_r, ← arith_plainSub]
  exact arithImm_eq plainSub n v _ s

theorem exec_cmpi (n : RegNum) (v : Long) (s : State) :
    exec (.cmpi n v) s = .next { s with
      sr := subCcr s.sr v (s.dreg n) 0
      pc := s.pc + 6 } := by
  rw [← compare_plainSub]
  rfl

theorem exec_neg (n : RegNum) (s : State) :
    exec (.neg n) s = .next { s with
      d := s.d.set n (exactDiff (s.dreg n) 0 0)
      sr := withX (subCcr s.sr (s.dreg n) 0 0)
      pc := s.pc + 2 } := by
  rw [← plainSub_r, ← arith_plainSub]
  rfl

theorem exec_addx (m n : RegNum) (s : State) :
    exec (.addx m n) s = .next { s with
      d := s.d.set n (exactSum (s.dreg m) (s.dreg n) s.sr.x.toNat)
      sr := withX (stickyZ s.sr (addCcr s.sr (s.dreg m) (s.dreg n) s.sr.x.toNat))
      pc := s.pc + 2 } := by
  rw [← addFlags_r, ← arithX_add_eq]
  exact arithX_eq addFlags _ _ n _ s

theorem exec_subx (m n : RegNum) (s : State) :
    exec (.subx m n) s = .next { s with
      d := s.d.set n (exactDiff (s.dreg m) (s.dreg n) s.sr.x.toNat)
      sr := withX (stickyZ s.sr (subCcr s.sr (s.dreg m) (s.dreg n) s.sr.x.toNat))
      pc := s.pc + 2 } := by
  rw [← subFlags_r, ← arithX_sub_eq]
  exact arithX_eq subFlags _ _ n _ s

theorem exec_negx (n : RegNum) (s : State) :
    exec (.negx n) s = .next { s with
      d := s.d.set n (exactDiff (s.dreg n) 0 s.sr.x.toNat)
      sr := withX (stickyZ s.sr (subCcr s.sr (s.dreg n) 0 s.sr.x.toNat))
      pc := s.pc + 2 } := by
  rw [← subFlags_r, ← arithX_sub_eq]
  exact arithX_eq subFlags _ _ n _ s

/-- Settles O21: the words are the encodings, which O3 reads back, and each form is a sum or
difference with its flags. -/
theorem immediateAndExtendedArithmetic : Obligations.ImmediateAndExtendedArithmetic :=
  fun s n m v q => ⟨exec_addq_dn q n s, exec_subq_dn q n s,
    fun cfg ws => decodeAfterEncode cfg (.addi n v) ws rfl,
    fun cfg ws => decodeAfterEncode cfg (.subi n v) ws rfl,
    fun cfg ws => decodeAfterEncode cfg (.cmpi n v) ws rfl,
    fun cfg ws => decodeAfterEncode cfg (.neg n) ws rfl,
    fun cfg ws => decodeAfterEncode cfg (.addx m n) ws rfl,
    fun cfg ws => decodeAfterEncode cfg (.subx m n) ws rfl,
    fun cfg ws => decodeAfterEncode cfg (.negx n) ws rfl,
    exec_addi n v s, exec_subi n v s, exec_cmpi n v s, exec_neg n s, exec_addx m n s,
    exec_subx m n s, exec_negx n s⟩

/-! ## Address registers -/

/-- ADDA and SUBA (R232, R249): An is read after the operand's own update (log 35). -/
theorem arithToAn_readable {ea : Ea} {s : State} (f : Long → Long → Long) (n : RegNum) (i : Instr)
    (h : eaReadable ea .long s = true) :
    arithToAn f ea n i s = .next { eaAfter ea .long s with
      a := (eaAfter ea .long s).a.set n (f (eaValue ea .long s) ((eaAfter ea .long s).areg n))
      pc := s.pc + i.ilen } := by
  rw [arithToAn, readEa_readable h, andThen_ok, finish_ok, State.advance, setA_pc, eaAfter_pc]
  rfl

theorem exec_adda {ea : Ea} {s : State} (n : RegNum) (h : eaReadable ea .long s = true) :
    exec (.adda ea n) s = .next { eaAfter ea .long s with
      a := (eaAfter ea .long s).a.set n
        (exactSum (eaValue ea .long s) ((eaAfter ea .long s).areg n) 0)
      pc := s.pc + BitVec.ofNat 32 (2 + 2 * ea.words .long) } := by
  rw [exactSum_zero]
  exact arithToAn_readable (fun v x => x + v) n _ h

theorem exec_suba {ea : Ea} {s : State} (n : RegNum) (h : eaReadable ea .long s = true) :
    exec (.suba ea n) s = .next { eaAfter ea .long s with
      a := (eaAfter ea .long s).a.set n
        (exactDiff (eaValue ea .long s) ((eaAfter ea .long s).areg n) 0)
      pc := s.pc + BitVec.ofNat 32 (2 + 2 * ea.words .long) } := by
  rw [exactDiff_zero]
  exact arithToAn_readable (fun v x => x - v) n _ h

theorem exec_cmpa {ea : Ea} {s : State} (n : RegNum) (h : eaReadable ea .long s = true) :
    exec (.cmpa ea n) s = .next { eaAfter ea .long s with
      sr := subCcr s.sr (eaValue ea .long s) ((eaAfter ea .long s).areg n) 0
      pc := s.pc + BitVec.ofNat 32 (2 + 2 * ea.words .long) } := by
  obtain ⟨regs, hafter⟩ := eaAfter_eq ea .long s
  change execCmpa ea n s = _
  rw [execCmpa, readEa_readable h, ← compare_plainSub, hafter]
  rfl

theorem exec_addq_an (q : BitVec 3) (n : RegNum) (s : State) :
    exec (.addq q (.an n)) s = .next { s with
      a := s.a.set n (exactSum (BitVec.ofNat 32 (quickValue q)) (s.areg n) 0)
      pc := s.pc + 2 } := by
  rw [exactSum_zero]
  rfl

theorem exec_subq_an (q : BitVec 3) (n : RegNum) (s : State) :
    exec (.subq q (.an n)) s = .next { s with
      a := s.a.set n (exactDiff (BitVec.ofNat 32 (quickValue q)) (s.areg n) 0)
      pc := s.pc + 2 } := by
  rw [exactDiff_zero]
  rfl

/-- Settles O22: the operand is read first, so An is that after the operand's update. -/
theorem addressArithmetic : Obligations.AddressArithmetic :=
  fun s n => ⟨fun _ h => ⟨exec_adda n h, exec_suba n h, exec_cmpa n h⟩,
    fun q => ⟨exec_addq_an q n s, exec_subq_an q n s⟩⟩

/-! ## Products -/

/-- The product of sign-extended words is exact (R242). -/
theorem mulSignedWord_eq (v d : Long) :
    mulSignedWord v d = BitVec.ofInt 32 ((v.setWidth 16).toInt * (d.setWidth 16).toInt) := by
  rw [mulSignedWord, signExtend_word, signExtend_word, BitVec.ofInt_mul]
  rfl

/-- The product of zero-extended words is exact (R244). -/
theorem mulUnsignedWord_eq (v d : Long) :
    mulUnsignedWord v d = BitVec.ofNat 32 (v.toNat % 2 ^ 16 * (d.toNat % 2 ^ 16)) := by
  rw [mulUnsignedWord, truncateTo_eq, truncateTo_eq, BitVec.ofNat_mul]
  rfl

/-- The four multiplications (R242 to R245). -/
theorem multiply_readable {sz : Size} {ea : Ea} {s : State} (f : Long → Long → Long) (n : RegNum)
    (i : Instr) (h : eaReadable ea sz s = true) :
    multiply sz f ea n i s = .next { eaAfter ea sz s with
      d := s.d.set n (f (eaValue ea sz s) (s.dreg n))
      sr := moveCcr s.sr (f (eaValue ea sz s) (s.dreg n)) .long
      pc := s.pc + i.ilen } := by
  obtain ⟨regs, hafter⟩ := eaAfter_eq ea sz s
  rw [multiply, readEa_readable h, ← logic_eq, hafter]
  rfl

/-- The long multiplications have an extension word of their own (R243, R245). -/
theorem mulLong_ilen (n : RegNum) (ea : Ea) :
    (Instr.mulsL n ea).ilen = BitVec.ofNat 32 (4 + 2 * ea.words .long) ∧
      (Instr.muluL n ea).ilen = BitVec.ofNat 32 (4 + 2 * ea.words .long) :=
  movem_ilen 0 ea

/-- Settles O23: the operand as every readable operand is read, then the product. -/
theorem multiplication : Obligations.Multiplication := by
  intro s ea n d
  refine ⟨fun h => ⟨?mulsW, ?muluW⟩, fun h => ?long⟩
  case mulsW =>
    rw [← mulSignedWord_eq]
    exact multiply_readable mulSignedWord n _ h
  case muluW =>
    rw [← mulUnsignedWord_eq]
    exact multiply_readable mulUnsignedWord n _ h
  case long =>
    obtain ⟨hmuls, hmulu⟩ := mulLong_ilen n ea
    rw [← hmuls]
    exact ⟨multiply_readable (fun v d => BitVec.ofInt 32 (v.toInt * d.toInt)) n _ h,
      multiply_readable (fun v d => BitVec.ofNat 32 (v.toNat * d.toNat)) n _ h⟩

/-! ## EXT, EXTB, SWAP -/

theorem signExtend_byte (v : Long) : signExtend v .byte = (v.setWidth 8).signExtend 32 := by
  rw [signExtend, BitVec.setWidth_eq_extractLsb' (by decide)]

theorem replaceLow_long (old v : Long) : replaceLow old v .long = v :=
  (mergeLow_eq old v .long).symm

/-- EXT and EXTB (R240, R241). -/
theorem extendReg_eq (sz : Size) (r : Long) (n : RegNum) (i : Instr) (s : State) :
    extendReg sz r n i s = .next { s with
      d := s.d.set n (replaceLow (s.dreg n) r sz)
      sr := moveCcr s.sr r sz
      pc := s.pc + i.ilen } := by
  rw [← mergeLow_eq, ← logic_eq]
  rfl

theorem extendReg_long (r : Long) (n : RegNum) (i : Instr) (s : State) :
    extendReg .long r n i s = .next { s with
      d := s.d.set n r
      sr := moveCcr s.sr r .long
      pc := s.pc + i.ilen } := by
  rw [extendReg_eq, replaceLow_long]

theorem exec_extW (n : RegNum) (s : State) :
    exec (.extW n) s = .next { s with
      d := s.d.set n (replaceLow (s.dreg n) (((s.dreg n).setWidth 8).signExtend 32) .word)
      sr := moveCcr s.sr (((s.dreg n).setWidth 8).signExtend 32) .word
      pc := s.pc + 2 } := by
  rw [← signExtend_byte]
  exact extendReg_eq ..

theorem exec_extL (n : RegNum) (s : State) :
    exec (.extL n) s = .next { s with
      d := s.d.set n (((s.dreg n).setWidth 16).signExtend 32)
      sr := moveCcr s.sr (((s.dreg n).setWidth 16).signExtend 32) .long
      pc := s.pc + 2 } := by
  rw [← signExtend_word]
  exact extendReg_long ..

theorem exec_extbL (n : RegNum) (s : State) :
    exec (.extbL n) s = .next { s with
      d := s.d.set n (((s.dreg n).setWidth 8).signExtend 32)
      sr := moveCcr s.sr (((s.dreg n).setWidth 8).signExtend 32) .long
      pc := s.pc + 2 } := by
  rw [← signExtend_byte]
  exact extendReg_long ..

/-- The halves exchanged, as bits and as a sum (43_shift R296). -/
theorem swapHalves_eq (d : Long) :
    d.extractLsb' 0 16 ++ d.extractLsb' 16 16 =
      BitVec.ofNat 32 (d.toNat % 2 ^ 16 * 2 ^ 16 + d.toNat / 2 ^ 16) := by
  have hd := d.isLt
  have hhigh : d.toNat / 2 ^ 16 < 2 ^ 16 := by omega
  have hsum : d.toNat % 2 ^ 16 * 2 ^ 16 + d.toNat / 2 ^ 16 < 2 ^ 32 := by omega
  apply BitVec.eq_of_toNat_eq
  rw [append_toNat, BitVec.extractLsb'_toNat, BitVec.extractLsb'_toNat, Nat.shiftRight_zero,
    Nat.shiftRight_eq_div_pow, Nat.mod_eq_of_lt hhigh, BitVec.toNat_ofNat, Nat.mod_eq_of_lt hsum]

theorem exec_swap (n : RegNum) (s : State) :
    exec (.swap n) s = .next { s with
      d := s.d.set n
        (BitVec.ofNat 32 ((s.dreg n).toNat % 2 ^ 16 * 2 ^ 16 + (s.dreg n).toNat / 2 ^ 16))
      sr := moveCcr s.sr
        (BitVec.ofNat 32 ((s.dreg n).toNat % 2 ^ 16 * 2 ^ 16 + (s.dreg n).toNat / 2 ^ 16)) .long
      pc := s.pc + 2 } := by
  rw [← swapHalves_eq, ← logic_eq]
  rfl

/-- Settles O24: each register as bits and as the statement's arithmetic. -/
theorem extendAndSwap : Obligations.ExtendAndSwap :=
  fun s n => ⟨exec_extW n s, exec_extL n s, exec_extbL n s, exec_swap n s⟩

/-! ## CLR and TST -/

theorem clrInstr_ilen (sz : Size) (ea : Ea) :
    (clrInstr sz ea).ilen = BitVec.ofNat 32 (2 + 2 * ea.words sz) := by
  cases sz <;> rfl

theorem tstInstr_ilen (sz : Size) (ea : Ea) :
    (tstInstr sz ea).ilen = BitVec.ofNat 32 (2 + 2 * ea.words sz) := by
  cases sz <;> rfl

/-- CLR whose write ends in `t` (R236). -/
theorem exec_clrInstr_written {sz : Size} {ea : Ea} {s t : State}
    (h : writeEa ea sz 0 s = .ok () t) :
    exec (clrInstr sz ea) s = .next { t with
      sr := moveCcr t.sr 0 sz
      pc := t.pc + BitVec.ofNat 32 (2 + 2 * ea.words sz) } := by
  rw [exec_clrInstr, clear, h, ← clrInstr_ilen, ← logic_eq]
  rfl

theorem exec_clrInstr_stored {sz : Size} {ea : Ea} {s : State} {a : Long}
    (hv : eaIndexValid ea = true) (ha : eaAddr ea sz s = some a) (hal : aligned a sz s = true) :
    ∃ t, Stored a sz 0 s t ∧ exec (clrInstr sz ea) s = .next { t with
      a := (eaAfter ea sz s).a
      sr := moveCcr s.sr 0 sz
      pc := s.pc + BitVec.ofNat 32 (2 + 2 * ea.words sz) } := by
  obtain ⟨t, ht, hwrite⟩ := writeEa_stored 0 hv ha hal
  refine ⟨t, ht, ?_⟩
  rw [exec_clrInstr_written hwrite, ht.rest]

theorem exec_tstInstr_readable {sz : Size} {ea : Ea} {s : State}
    (h : eaReadable ea sz s = true) :
    exec (tstInstr sz ea) s = .next { eaAfter ea sz s with
      sr := moveCcr s.sr (eaValue ea sz s) sz
      pc := s.pc + BitVec.ofNat 32 (2 + 2 * ea.words sz) } := by
  obtain ⟨regs, hafter⟩ := eaAfter_eq ea sz s
  rw [exec_tstInstr, testOperand, readEa_readable h, ← tstInstr_ilen, ← logic_eq, hafter]
  rfl

/-- Settles O25: CLR by what its write leaves, TST by what its read gives. -/
theorem clearAndTest : Obligations.ClearAndTest := by
  intro s sz ea next
  refine ⟨fun n hn => ?_, fun a hv ha hal => exec_clrInstr_stored hv ha hal,
    fun h => exec_tstInstr_readable h⟩
  subst hn
  exact exec_clrInstr_written (writeEa_dn n sz 0 s)

/-! ## An operand in memory read and then written -/

theorem aligned_of_readable {a : Long} {sz : Size} {s : State} (h : readable a sz s = true) :
    aligned a sz s = true := by
  rw [readable, Bool.and_eq_true] at h
  exact h.1

/-- A read-modify-write of memory: one read and one store at the same address, one update of its
register (30_encoding R114, R121). -/
theorem modifyEa_stored {ea : Ea} {sz : Size} {s : State} {a : Long} (f : Long → SR → Long × SR)
    (hv : eaIndexValid ea = true) (ha : eaAddr ea sz s = some a) (h : readable a sz s = true) :
    ∃ t, Stored a sz (f (s.mem.read a sz) s.sr).1 s t ∧
      modifyEa ea sz f s = .ok () { t with
        a := (eaAfter ea sz s).a
        sr := (f (s.mem.read a sz) s.sr).2 } := by
  have hread : readMem a sz (eaAfter ea sz s) = .ok (s.mem.read a sz) (eaAfter ea sz s) := by
    rw [readMem_ok _ _ _ (by rw [eaAfter_readable, h]), eaAfter_mem]
  obtain ⟨t, ht, hwrite⟩ := writeEa_stored (f (s.mem.read a sz) s.sr).1 hv ha
    (aligned_of_readable h)
  rw [writeEa, resolve_mem ea sz s a hv ha, andThen_ok] at hwrite
  refine ⟨t, ht, ?_⟩
  rw [modifyEa, resolve_mem ea sz s a hv ha, andThen_ok, readPlace, hread, andThen_ok, eaAfter_sr,
    hwrite, andThen_ok, ht.rest]
  rfl

/-- An instruction that is a read-modify-write of a long word in memory. -/
theorem finish_modifyEa_stored {ea : Ea} {s : State} {a : Long} (f : Long → SR → Long × SR)
    (i : Instr) (hv : eaIndexValid ea = true) (ha : eaAddr ea .long s = some a)
    (h : readable a .long s = true) :
    ∃ t, Stored a .long (f (s.mem.read a .long) s.sr).1 s t ∧
      finish ((modifyEa ea .long f s).andThen fun _ u => .ok () (u.advance i)) = .next { t with
        a := (eaAfter ea .long s).a
        sr := (f (s.mem.read a .long) s.sr).2
        pc := s.pc + i.ilen } := by
  obtain ⟨t, ht, hmodify⟩ := modifyEa_stored f hv ha h
  refine ⟨t, ht, ?_⟩
  rw [hmodify, ht.rest]
  rfl

/-- ADD, SUB, ADDQ and SUBQ on memory (R230). -/
theorem arithToEa_stored {ea : Ea} {s : State} {a : Long} (f : Long → Long → Sum) (v : Long)
    (i : Instr) (hv : eaIndexValid ea = true) (ha : eaAddr ea .long s = some a)
    (h : readable a .long s = true) :
    ∃ t, Stored a .long (f v (s.mem.read a .long)).r s t ∧
      arithToEa f v ea i s = .next { t with
        a := (eaAfter ea .long s).a
        sr := s.sr.arith (f v (s.mem.read a .long))
        pc := s.pc + i.ilen } :=
  finish_modifyEa_stored (fun d sr => ((f v d).r, sr.arith (f v d))) i hv ha h

/-- ADD and ADDQ to memory (R231, R234). -/
theorem arithToEa_plainAdd_stored {ea : Ea} {s : State} {a : Long} (v : Long) (i : Instr)
    (hv : eaIndexValid ea = true) (ha : eaAddr ea .long s = some a)
    (h : readable a .long s = true) :
    ∃ t, Stored a .long (exactSum v (s.mem.read a .long) 0) s t ∧
      arithToEa plainAdd v ea i s = .next { t with
        a := (eaAfter ea .long s).a
        sr := withX (addCcr s.sr v (s.mem.read a .long) 0)
        pc := s.pc + i.ilen } := by
  rw [← plainAdd_r, ← arith_plainAdd]
  exact arithToEa_stored plainAdd v i hv ha h

/-- SUB and SUBQ from memory (R248, R251). -/
theorem arithToEa_plainSub_stored {ea : Ea} {s : State} {a : Long} (v : Long) (i : Instr)
    (hv : eaIndexValid ea = true) (ha : eaAddr ea .long s = some a)
    (h : readable a .long s = true) :
    ∃ t, Stored a .long (exactDiff v (s.mem.read a .long) 0) s t ∧
      arithToEa plainSub v ea i s = .next { t with
        a := (eaAfter ea .long s).a
        sr := withX (subCcr s.sr v (s.mem.read a .long) 0)
        pc := s.pc + i.ilen } := by
  rw [← plainSub_r, ← arith_plainSub]
  exact arithToEa_stored plainSub v i hv ha h

/-- AND, OR and EOR to memory (42_logical R270). -/
theorem logicToEa_stored {ea : Ea} {s : State} {a : Long} (f : Long → Long → Long) (n : RegNum)
    (i : Instr) (hv : eaIndexValid ea = true) (ha : eaAddr ea .long s = some a)
    (h : readable a .long s = true) :
    ∃ t, Stored a .long (f (s.dreg n) (s.mem.read a .long)) s t ∧
      logicToEa f n ea i s = .next { t with
        a := (eaAfter ea .long s).a
        sr := moveCcr s.sr (f (s.dreg n) (s.mem.read a .long)) .long
        pc := s.pc + i.ilen } := by
  rw [← logic_eq]
  exact finish_modifyEa_stored (fun d sr => (f (s.dreg n) d, sr.logic (f (s.dreg n) d) .long)) i
    hv ha h

/-- ADDQ and SUBQ treat an operand in memory as ADD and SUB do (R234, R251). -/
theorem exec_quick_mem {ea : Ea} {s : State} {a : Long} (q : BitVec 3)
    (ha : eaAddr ea .long s = some a) :
    exec (.addq q ea) s =
        arithToEa plainAdd (BitVec.ofNat 32 (quickValue q)) ea (.addq q ea) s ∧
      exec (.subq q ea) s =
        arithToEa plainSub (BitVec.ofNat 32 (quickValue q)) ea (.subq q ea) s := by
  cases ea with
  | an n => cases ha
  | _ => exact ⟨rfl, rfl⟩

/-- Settles O27: each instruction is one read-modify-write of the long word at its address. -/
theorem readModifyWrite : Obligations.ReadModifyWrite := by
  intro s ea a hv ha h m done
  refine ⟨fun n => ⟨arithToEa_plainAdd_stored _ _ hv ha h, arithToEa_plainSub_stored _ _ hv ha h,
    ?and, ?or, ?eor⟩, fun q => ?quick⟩
  case and =>
    rw [BitVec.and_comm]
    exact logicToEa_stored _ n _ hv ha h
  case or =>
    rw [BitVec.or_comm]
    exact logicToEa_stored _ n _ hv ha h
  case eor =>
    rw [BitVec.xor_comm]
    exact logicToEa_stored _ n _ hv ha h
  case quick =>
    obtain ⟨hadd, hsub⟩ := exec_quick_mem q ha
    dsimp only [done]
    rw [hadd, hsub]
    exact ⟨arithToEa_plainAdd_stored _ _ hv ha h, arithToEa_plainSub_stored _ _ hv ha h⟩

end Sys2Proof.Machine

/-! The logical instructions on a data register (42_logical R270 to R277). -/

namespace Sys2Proof.Machine

/-! ## The three shapes -/

/-- AND and OR to Dn (R271, R276): a product's shape, with the logical operation for the product. -/
theorem logicToDn_readable {ea : Ea} {s : State} (f : Long → Long → Long) (n : RegNum) (i : Instr)
    (h : eaReadable ea .long s = true) :
    logicToDn f ea n i s = .next { eaAfter ea .long s with
      d := s.d.set n (f (eaValue ea .long s) (s.dreg n))
      sr := moveCcr s.sr (f (eaValue ea .long s) (s.dreg n)) .long
      pc := s.pc + i.ilen } :=
  multiply_readable f n i h

/-- ANDI, ORI, EORI and NOT (R272, R274, R275, R277). -/
theorem logicReg_eq (r : Long) (n : RegNum) (i : Instr) (s : State) :
    logicReg r n i s = .next { s with
      d := s.d.set n r
      sr := moveCcr s.sr r .long
      pc := s.pc + i.ilen } := by
  rw [← logic_eq]
  rfl

/-- EOR to Dn (R273). -/
theorem logicToEa_dn (f : Long → Long → Long) (m n : RegNum) (i : Instr) (s : State) :
    logicToEa f m (.dn n) i s = .next { s with
      d := s.d.set n (f (s.dreg m) (s.dreg n))
      sr := moveCcr s.sr (f (s.dreg m) (s.dreg n)) .long
      pc := s.pc + i.ilen } := by
  rw [logicToEa, modifyEa_dn, ← logic_eq]
  rfl

/-! ## An operand into a data register -/

theorem exec_andToDn {ea : Ea} {s : State} (n : RegNum) (h : eaReadable ea .long s = true) :
    exec (.andToDn n ea) s = .next { eaAfter ea .long s with
      d := s.d.set n (s.dreg n &&& eaValue ea .long s)
      sr := moveCcr s.sr (s.dreg n &&& eaValue ea .long s) .long
      pc := s.pc + BitVec.ofNat 32 (2 + 2 * ea.words .long) } := by
  rw [BitVec.and_comm]
  exact logicToDn_readable (fun v d => v &&& d) n _ h

theorem exec_orToDn {ea : Ea} {s : State} (n : RegNum) (h : eaReadable ea .long s = true) :
    exec (.orToDn n ea) s = .next { eaAfter ea .long s with
      d := s.d.set n (s.dreg n ||| eaValue ea .long s)
      sr := moveCcr s.sr (s.dreg n ||| eaValue ea .long s) .long
      pc := s.pc + BitVec.ofNat 32 (2 + 2 * ea.words .long) } := by
  rw [BitVec.or_comm]
  exact logicToDn_readable (fun v d => v ||| d) n _ h

/-! ## Immediates, NOT, and EOR with a data register -/

theorem exec_andi (n : RegNum) (v : Long) (s : State) :
    exec (.andi n v) s = .next { s with
      d := s.d.set n (s.dreg n &&& v)
      sr := moveCcr s.sr (s.dreg n &&& v) .long
      pc := s.pc + 6 } := by
  rw [BitVec.and_comm]
  exact logicReg_eq ..

theorem exec_ori (n : RegNum) (v : Long) (s : State) :
    exec (.ori n v) s = .next { s with
      d := s.d.set n (s.dreg n ||| v)
      sr := moveCcr s.sr (s.dreg n ||| v) .long
      pc := s.pc + 6 } := by
  rw [BitVec.or_comm]
  exact logicReg_eq ..

theorem exec_eori (n : RegNum) (v : Long) (s : State) :
    exec (.eori n v) s = .next { s with
      d := s.d.set n (s.dreg n ^^^ v)
      sr := moveCcr s.sr (s.dreg n ^^^ v) .long
      pc := s.pc + 6 } := by
  rw [BitVec.xor_comm]
  exact logicReg_eq ..

theorem exec_not (n : RegNum) (s : State) :
    exec (.not n) s = .next { s with
      d := s.d.set n (~~~ s.dreg n)
      sr := moveCcr s.sr (~~~ s.dreg n) .long
      pc := s.pc + 2 } :=
  logicReg_eq ..

theorem exec_eor_dn (m n : RegNum) (s : State) :
    exec (.eor m (.dn n)) s = .next { s with
      d := s.d.set n (s.dreg n ^^^ s.dreg m)
      sr := moveCcr s.sr (s.dreg n ^^^ s.dreg m) .long
      pc := s.pc + 2 } := by
  rw [BitVec.xor_comm]
  exact logicToEa_dn (fun v d => v ^^^ d) m n _ s

/-- Settles O26: the words are the encodings, which O3 reads back, and each instruction is one
logical operation on the register with the flags of its result. -/
theorem logicalOnRegister : Obligations.LogicalOnRegister :=
  fun s n => ⟨fun _ h => ⟨exec_andToDn n h, exec_orToDn n h⟩,
    fun v => ⟨fun cfg ws => decodeAfterEncode cfg (.andi n v) ws rfl,
      fun cfg ws => decodeAfterEncode cfg (.ori n v) ws rfl,
      fun cfg ws => decodeAfterEncode cfg (.eori n v) ws rfl,
      exec_andi n v s, exec_ori n v s, exec_eori n v s⟩,
    fun cfg ws => decodeAfterEncode cfg (.not n) ws rfl, exec_not n s,
    fun m => exec_eor_dn m n s⟩

end Sys2Proof.Machine

/-! The shifts: one position at a time and at once (43_shift R290 to R295). -/

namespace Sys2Proof.Machine

/-! ## Repeated shifts in closed form -/

/-- The last position comes last: the recursion of `ShiftOp.times` puts the first one first. -/
theorem times_succ (op : ShiftOp) (c : Nat) (v : Long) (out : Bool) :
    op.times (c + 1) v out = op.once (op.times c v out).1 := by
  induction c generalizing v out with
  | zero => rfl
  | succ c ih => exact ih (op.once v).1 (op.once v).2

/-- One more position after `c` at once is `c + 1` at once. -/
theorem once_shiftedBy_fst (op : ShiftOp) (c : Nat) (v : Long) :
    (op.once (shiftedBy op c v).1).1 = (shiftedBy op (c + 1) v).1 := by
  cases op with
  | asl | lsl => exact (BitVec.shiftLeft_add v c 1).symm
  | asr => exact BitVec.sshiftRight_add.symm
  | lsr => exact (BitVec.shiftRight_add v c 1).symm

/-- The last bit out: bit 31 of a value shifted left by `c` is bit `31 - c` of the operand or a zero
that entered; bit 0 of one shifted right is bit `c`, a zero that entered, or a copy of the sign. -/
theorem once_shiftedBy_snd (op : ShiftOp) (c : Nat) (v : Long) :
    (op.once (shiftedBy op c v).1).2 = (shiftedBy op (c + 1) v).2 := by
  cases op with
  | asl | lsl =>
    change (v <<< c).getLsbD 31 = (decide (c + 1 ≤ 32) && v.getLsbD (32 - (c + 1)))
    have hbit : 32 - (c + 1) = 31 - c := by omega
    have hin : (!decide (31 < c)) = decide (c + 1 ≤ 32) := by
      rw [← decide_not, decide_eq_decide]
      omega
    rw [BitVec.getLsbD_shiftLeft, hbit, hin, decide_eq_true (by decide : 31 < 32), Bool.true_and]
  | lsr =>
    change (v >>> c).getLsbD 0 = v.getLsbD c
    rw [BitVec.getLsbD_ushiftRight, Nat.add_zero]
  | asr =>
    change (v.sshiftRight c).getLsbD 0 = v.getLsbD (min c 31)
    rw [BitVec.getLsbD_sshiftRight]
    obtain hc | hc := Nat.lt_or_ge c 32
    · have hmin : min c 31 = c := by omega
      simp [hmin, hc]
    · have hmin : min c 31 = 31 := by omega
      simp [hmin, Nat.not_lt.mpr hc, BitVec.msb_eq_getLsbD_last]

theorem times_fst (op : ShiftOp) (c : Nat) (v : Long) (out : Bool) :
    (op.times c v out).1 = (shiftedBy op c v).1 := by
  induction c with
  | zero => cases op <;> simp [ShiftOp.times, shiftedBy]
  | succ c ih => rw [times_succ, ih, once_shiftedBy_fst]

/-- For every count but zero, which shifts no bit out (R291 for the counts beyond 31). -/
theorem times_snd (op : ShiftOp) {c : Nat} (hc : c ≠ 0) (v : Long) (out : Bool) :
    (op.times c v out).2 = (shiftedBy op c v).2 := by
  obtain ⟨k, rfl⟩ := Nat.exists_eq_succ_of_ne_zero hc
  rw [times_succ, times_fst, once_shiftedBy_snd]

/-- The flags of a shift are those of a logical result, but C and X (R290). -/
theorem shift_eq_logic (sr : SR) (c : Nat) (v : Long) (out : Bool) :
    sr.shift c v out = { sr.logic v .long with
      c := decide (c ≠ 0) && out
      x := if c = 0 then sr.x else out } := by
  have hc : (if c = 0 then false else out) = (decide (c ≠ 0) && out) := by
    by_cases h : c = 0 <;> simp [h]
  rw [SR.shift, hc]
  rfl

theorem shift_times_eq (sr : SR) (op : ShiftOp) (c : Nat) (v : Long) :
    sr.shift c (op.times c v false).1 (op.times c v false).2 = shiftCcr sr op c v := by
  rw [times_fst, shift_eq_logic, logic_eq]
  by_cases hc : c = 0
  · simp [shiftCcr, hc]
  · rw [times_snd op hc]
    rfl

/-! ## The instructions -/

/-- A shift of Dn (R290). -/
theorem shiftReg_eq (op : ShiftOp) (c : Nat) (n : RegNum) (i : Instr) (s : State) :
    shiftReg op c n i s = .next { s with
      d := s.d.set n (shiftedBy op c (s.dreg n)).1
      sr := shiftCcr s.sr op c (s.dreg n)
      pc := s.pc + i.ilen } := by
  rw [← shift_times_eq, ← times_fst op c (s.dreg n) false]
  rfl

theorem exec_shiftImmInstr (op : ShiftOp) (q : BitVec 3) (n : RegNum) (s : State) :
    exec (shiftImmInstr op q n) s = .next { s with
      d := s.d.set n (shiftedBy op (quickValue q) (s.dreg n)).1
      sr := shiftCcr s.sr op (quickValue q) (s.dreg n)
      pc := s.pc + 2 } := by
  cases op <;> exact shiftReg_eq ..

theorem exec_shiftRegInstr (op : ShiftOp) (m n : RegNum) (s : State) :
    exec (shiftRegInstr op m n) s = .next { s with
      d := s.d.set n (shiftedBy op (countOf m s) (s.dreg n)).1
      sr := shiftCcr s.sr op (countOf m s) (s.dreg n)
      pc := s.pc + 2 } := by
  cases op <;> exact shiftReg_eq ..

/-! ## The operation words -/

/-- An instruction of one word is read back from that word (O3). -/
theorem wordIs_of_encode {w : Nat} {i : Instr} (hwf : ∀ cfg, i.wf cfg = true)
    (hw : encode i = [BitVec.ofNat 16 w]) : wordIs w i := by
  intro cfg ws
  have hdecode := decodeAfterEncode cfg i ws (hwf cfg)
  rwa [hw] at hdecode

/-- The fields of R290, summed in the statement's order and in the encoder's. -/
theorem encode_shiftImmInstr (op : ShiftOp) (q : BitVec 3) (n : RegNum) :
    encode (shiftImmInstr op q n) = [BitVec.ofNat 16 (shiftWord op q.toNat 0 n.val)] := by
  cases op
  all_goals
    refine congrArg (fun w => [BitVec.ofNat 16 w]) ?_
    dsimp only [shiftWord]
    omega

theorem encode_shiftRegInstr (op : ShiftOp) (m n : RegNum) :
    encode (shiftRegInstr op m n) = [BitVec.ofNat 16 (shiftWord op m.val 1 n.val)] := by
  cases op
  all_goals
    refine congrArg (fun w => [BitVec.ofNat 16 w]) ?_
    dsimp only [shiftWord]
    omega

theorem wordIs_shiftImmInstr (op : ShiftOp) (q : BitVec 3) (n : RegNum) :
    wordIs (shiftWord op q.toNat 0 n.val) (shiftImmInstr op q n) :=
  wordIs_of_encode (fun _ => by cases op <;> rfl) (encode_shiftImmInstr op q n)

theorem wordIs_shiftRegInstr (op : ShiftOp) (m n : RegNum) :
    wordIs (shiftWord op m.val 1 n.val) (shiftRegInstr op m n) :=
  wordIs_of_encode (fun _ => by cases op <;> rfl) (encode_shiftRegInstr op m n)

/-- Settles O28: the words are the encodings, which O3 reads back, and `c` positions one at a time
are `c` positions at once, by induction on the count. -/
theorem shifts : Obligations.Shifts :=
  fun s op n => ⟨fun q => ⟨wordIs_shiftImmInstr op q n, exec_shiftImmInstr op q n s⟩,
    fun m => ⟨wordIs_shiftRegInstr op m n, exec_shiftRegInstr op m n s⟩⟩

end Sys2Proof.Machine

/-! The bit manipulation instructions: the one bit by its number and by its mask, BTST, and the three
that replace the bit (44_bit_manipulation R310 to R315). -/

namespace Sys2Proof.Machine

/-! ## One bit by its number and by its mask -/

theorem bitOf_eq_getLsbD (v : Long) (k : Nat) : bitOf v k = v.getLsbD k := by
  rw [bitOf, ← Nat.testBit_eq_decide_div_mod_eq, BitVec.testBit_toNat]

/-- The mask of a bit if the bit is 1, as a number and as a word. -/
theorem ofNat_bit_mul_two_pow (b : Bool) (k : Nat) :
    BitVec.ofNat 32 (b.toNat * 2 ^ k) = if b then oneBit k else 0 := by
  cases b with
  | false => simp
  | true =>
    apply BitVec.eq_of_toNat_eq
    simp [oneBit, Nat.shiftLeft_eq]

theorem and_oneBit (v : Long) (k : Nat) :
    v &&& oneBit k = if bitOf v k then oneBit k else 0 := by
  rw [bitOf_eq_getLsbD]
  exact BitVec.and_twoPow v k

/-- A word is its other bits and the one bit, with no carry between them. -/
theorem and_not_add_and (v m : Long) : (v &&& ~~~m) + (v &&& m) = v := by
  have hdisjoint : (v &&& ~~~m) &&& (v &&& m) = 0 := by
    ext
    grind
  rw [BitVec.add_eq_or_of_and_eq_zero _ _ hdisjoint]
  ext
  grind

/-- A bit replaced by arithmetic is its place cleared and the new bit put there. -/
theorem putBit_eq_or (v : Long) (k : Nat) (b : Bool) :
    putBit v k b = (v &&& ~~~oneBit k) ||| (if b then oneBit k else 0) := by
  have hle : (bitOf v k).toNat * 2 ^ k ≤ v.toNat := by
    cases hb : bitOf v k with
    | false => simp
    | true =>
      rw [bitOf_eq_getLsbD, ← BitVec.testBit_toNat] at hb
      simpa using Nat.ge_two_pow_of_testBit hb
  have hsub : BitVec.ofNat 32 (v.toNat - (bitOf v k).toNat * 2 ^ k) = v &&& ~~~oneBit k := by
    rw [← BitVec.ofNat_sub_ofNat_of_le _ _ (hle.trans_lt v.isLt) hle, ofNat_bit_mul_two_pow,
      ← and_oneBit, BitVec.ofNat_toNat, BitVec.setWidth_eq, sub_eq_iff_eq_add, and_not_add_and]
  rw [putBit, BitVec.ofNat_add, hsub, ofNat_bit_mul_two_pow, BitVec.add_eq_or_of_and_eq_zero]
  cases b <;> simp [BitVec.and_assoc]

/-- The function of the bit's mask by which the machine changes the bit (R313 to R315). -/
def bitFn : BitOp → Long → Long → Long
  | .chg => flipBit
  | .clr => clearBit
  | .set => setBit

theorem bitFn_oneBit (op : BitOp) (v : Long) (k : Nat) :
    bitFn op v (oneBit k) = putBit v k (newBit op (bitOf v k)) := by
  rw [putBit_eq_or]
  cases op with
  | chg =>
    have hxor : v ^^^ oneBit k = v &&& ~~~oneBit k ||| (oneBit k ^^^ (v &&& oneBit k)) := by
      ext
      grind
    rw [bitFn, flipBit, hxor, and_oneBit, newBit]
    cases bitOf v k <;> simp
  | clr => simp [bitFn, clearBit, newBit]
  | set =>
    change v ||| oneBit k = v &&& ~~~oneBit k ||| oneBit k
    ext
    grind

/-! ## The operand and the words -/

theorem bitSize_of_ne_dn {ea : Ea} (h : ∀ n, ea ≠ .dn n) : bitSize ea = .byte := by
  cases ea with
  | dn n => exact absurd rfl (h n)
  | _ => rfl

theorem bitIndex_of_ne_dn {ea : Ea} (h : ∀ n, ea ≠ .dn n) (b : Nat) : bitIndex ea b = b % 8 := by
  cases ea with
  | dn n => exact absurd rfl (h n)
  | _ => rfl

theorem ne_dn_of_eaAddr {ea : Ea} {sz : Size} {s : State} {a : Long}
    (h : eaAddr ea sz s = some a) (n : RegNum) : ea ≠ .dn n := by
  rintro rfl
  cases h

/-- The static forms have an extension word of their own, the bit number (R312). -/
theorem btstImm_ilen (b : Byte) (ea : Ea) :
    (Instr.btstImm b ea).ilen = BitVec.ofNat 32 (4 + 2 * ea.words .byte) := by
  have h : 2 + 2 * (1 + ea.words .byte) = 4 + 2 * ea.words .byte := by omega
  exact congrArg _ h

theorem bitImmInstr_ilen (op : BitOp) (b : Byte) (ea : Ea) :
    (bitImmInstr op b ea).ilen = BitVec.ofNat 32 (4 + 2 * ea.words .byte) := by
  cases op <;> exact btstImm_ilen b ea

theorem bitDynInstr_ilen (op : BitOp) (r : RegNum) (ea : Ea) :
    (bitDynInstr op r ea).ilen = BitVec.ofNat 32 (2 + 2 * ea.words .byte) := by
  cases op <;> rfl

theorem exec_bitDynInstr (op : BitOp) (r : RegNum) (ea : Ea) (s : State) :
    exec (bitDynInstr op r ea) s =
      bitModify (bitFn op) (s.dreg r).toNat ea (bitDynInstr op r ea) s := by
  cases op <;> rfl

theorem exec_bitImmInstr (op : BitOp) (b : Byte) (ea : Ea) (s : State) :
    exec (bitImmInstr op b ea) s = bitModify (bitFn op) b.toNat ea (bitImmInstr op b ea) s := by
  cases op <;> rfl

/-! ## BTST -/

/-- BTST of Dn (R310, R312). -/
theorem bitTestOf_dn (b : Nat) (n : RegNum) (i : Instr) (s : State) :
    bitTestOf b (.dn n) i s = .next { s with
      sr := { s.sr with z := !bitOf (s.dreg n) (b % 32) }
      pc := s.pc + i.ilen } := by
  rw [bitOf_eq_getLsbD]
  rfl

/-- BTST of a byte of memory or an immediate (R310, R312). -/
theorem bitTestOf_byte {ea : Ea} {s : State} (b : Nat) (i : Instr) (hea : ∀ n, ea ≠ .dn n)
    (h : eaReadable ea .byte s = true) :
    bitTestOf b ea i s = .next { eaAfter ea .byte s with
      sr := { s.sr with z := !bitOf (eaValue ea .byte s) (b % 8) }
      pc := s.pc + i.ilen } := by
  obtain ⟨regs, hafter⟩ := eaAfter_eq ea .byte s
  rw [bitTestOf, bitSize_of_ne_dn hea, bitIndex_of_ne_dn hea, readEa_readable h,
    bitOf_eq_getLsbD, hafter]
  rfl

/-- Settles O29: a register's bits need no access that can fail, and every other operand is read as
every readable operand is; then both numberings of the bit. -/
theorem bitTest : Obligations.BitTest := by
  intro s r b
  refine ⟨fun n => ⟨bitTestOf_dn _ n _ s, bitTestOf_dn _ n _ s⟩,
    fun ea hea h => ⟨bitTestOf_byte _ _ hea h, ?_⟩⟩
  rw [← btstImm_ilen b]
  exact bitTestOf_byte _ _ hea h

/-! ## BCHG, BCLR, BSET -/

/-- BCHG, BCLR and BSET of Dn (R310). -/
theorem bitModify_dn (op : BitOp) (b : Nat) (n : RegNum) (i : Instr) (s : State) :
    bitModify (bitFn op) b (.dn n) i s = .next { s with
      d := s.d.set n (putBit (s.dreg n) (b % 32) (newBit op (bitOf (s.dreg n) (b % 32))))
      sr := { s.sr with z := !bitOf (s.dreg n) (b % 32) }
      pc := s.pc + i.ilen } := by
  rw [← bitFn_oneBit, bitOf_eq_getLsbD]
  rfl

/-- BCHG, BCLR and BSET of a byte of memory: one read-modify-write (R310). -/
theorem bitModify_stored {ea : Ea} {s : State} {a : Long} (op : BitOp) (b : Nat) (i : Instr)
    (hv : eaIndexValid ea = true) (ha : eaAddr ea .byte s = some a)
    (h : readable a .byte s = true) :
    let v := s.mem.read a .byte
    ∃ t, Stored a .byte (putBit v (b % 8) (newBit op (bitOf v (b % 8)))) s t ∧
      bitModify (bitFn op) b ea i s = .next { t with
        a := (eaAfter ea .byte s).a
        sr := { s.sr with z := !bitOf v (b % 8) }
        pc := s.pc + i.ilen } := by
  intro v
  obtain ⟨t, ht, hmodify⟩ := modifyEa_stored
    (fun v sr => (bitFn op v (oneBit (b % 8)), sr.bitTest (v.getLsbD (b % 8)))) hv ha h
  rw [← bitFn_oneBit, bitOf_eq_getLsbD]
  refine ⟨t, ht, ?_⟩
  rw [bitModify, bitSize_of_ne_dn (ne_dn_of_eaAddr ha), bitIndex_of_ne_dn (ne_dn_of_eaAddr ha),
    hmodify, ht.rest]
  rfl

/-- Settles O30: one read-modify-write of the register or the byte, whose new value is the old one
with the one bit replaced. -/
theorem bitChange : Obligations.BitChange := by
  intro s op r b
  refine ⟨fun n => ?register, fun ea a hv ha h => ?memory⟩
  case register =>
    intro d put i j
    rw [exec_bitDynInstr, exec_bitImmInstr, bitModify_dn, bitModify_dn, bitDynInstr_ilen,
      bitImmInstr_ilen]
    exact ⟨rfl, rfl⟩
  case memory =>
    intro v put i j
    rw [exec_bitDynInstr, exec_bitImmInstr, ← bitDynInstr_ilen op r, ← bitImmInstr_ilen op b]
    exact ⟨bitModify_stored op _ _ hv ha h, bitModify_stored op _ _ hv ha h⟩

end Sys2Proof.Machine

/-! Program control: the branches, the jumps and subroutine calls with their returns, TRAPF and NOP
(45_program_control R330 to R341). -/

namespace Sys2Proof.Machine

/-! ## The check of a target -/

theorem checkTarget_odd {t : Long} {s : State} (h : even t = false) :
    checkTarget t s = .raise (.addressError .oddTarget) s := by
  simp [checkTarget_eq, h]

/-- A transfer to an even target goes on with what follows the check (R330). -/
theorem finish_checkTarget_even {t : Long} {s : State} (k : Unit → State → Eff Unit)
    (h : even t = true) : finish ((checkTarget t s).andThen k) = finish (k () s) := by
  rw [checkTarget_even h, andThen_ok]

/-- Nothing that follows the check is done for an odd target (R330, D17). -/
theorem finish_checkTarget_odd {t : Long} {s : State} (k : Unit → State → Eff Unit)
    (h : even t = false) :
    finish ((checkTarget t s).andThen k) = .next (raiseExc (.addressError .oddTarget) s) := by
  rw [checkTarget_odd h, andThen_raise, finish_raise]

/-! ## Branches -/

theorem branchInstr_ilen (c : Cond) (d : Disp) :
    (branchInstr c d).ilen = BitVec.ofNat 32 (2 + 2 * d.words) := by
  cases c <;> rfl

/-- BRA is the conditional branch whose condition always holds (R332); condition $1 is BSR. -/
theorem exec_branchInstr {c : Cond} (hc : c ≠ .f) (d : Disp) (s : State) :
    exec (branchInstr c d) s = branchIf c d (branchInstr c d) s := by
  cases c with
  | f => exact absurd rfl hc
  | _ => rfl

/-- A branch that is taken is a transfer to its target (R331). -/
theorem branchIf_taken {c : Cond} {s : State} (d : Disp) (i : Instr)
    (h : condHolds c s.sr = true) :
    branchIf c d i s =
      finish ((checkTarget (s.pc + 2 + Disp.value d) s).andThen fun _ s' =>
        .ok () (s'.setPc (s'.pc + 2 + Disp.value d))) := by
  simp only [branchIf, if_pos h, branchTarget_eq]

/-- A branch that is not taken does not look at its target (R331). -/
theorem branchIf_not_taken {c : Cond} {s : State} (d : Disp) (i : Instr)
    (h : condHolds c s.sr = false) : branchIf c d i s = .next (s.advance i) := by
  rw [branchIf, if_neg (by simp [h]), finish_ok]

/-- Settles O31: BRA and Bcc are one conditional branch; taken, it is a transfer to its target, and
not taken it passes its own words. -/
theorem branches : Obligations.Branches := by
  intro s c d hc target
  rw [exec_branchInstr hc]
  refine ⟨fun h heven => ?taken, fun h => ?notTaken, fun h hodd => ?odd⟩
  case taken => rw [branchIf_taken d _ h, finish_checkTarget_even _ heven]; rfl
  case notTaken => rw [branchIf_not_taken d _ h, State.advance, branchInstr_ilen]; rfl
  case odd => rw [branchIf_taken d _ h, finish_checkTarget_odd _ hodd]

/-! ## Jumps, calls and the return as transfers to their targets -/

/-- JMP to the address of a control mode (R334). -/
theorem exec_jmp {ea : Ea} {s : State} {t : Long} (hc : ea.isControl = true)
    (hv : eaIndexValid ea = true) (ha : eaAddr ea .long s = some t) :
    exec (.jmp ea) s =
      finish ((checkTarget t s).andThen fun _ s' => .ok () (s'.setPc t)) := by
  change execJmp ea s = _
  rw [execJmp, addrEa_control hc hv ha, andThen_ok]

/-- JSR calls the address of a control mode, formed before SP moves (R335, D14). -/
theorem exec_jsr {ea : Ea} {s : State} {t : Long} (hc : ea.isControl = true)
    (hv : eaIndexValid ea = true) (ha : eaAddr ea .long s = some t) :
    exec (.jsr ea) s = finish (callTo t (.jsr ea) s) := by
  change execJsr ea s = _
  rw [execJsr, addrEa_control hc hv ha, andThen_ok]

/-- BSR calls the target of a branch (R333). -/
theorem exec_bsr (d : Disp) (s : State) :
    exec (.bsr d) s = finish (callTo (s.pc + 2 + Disp.value d) (.bsr d) s) := by
  change execBsr d s = _
  rw [execBsr, branchTarget_eq]

/-- RTS goes to the long word at SP, which moves once the target is checked (R337). -/
theorem exec_rts {s : State} (h : readable s.sp .long s = true) :
    exec .rts s =
      finish ((checkTarget (s.mem.read s.sp .long) s).andThen fun _ s' =>
        .ok () ((s'.setSp (s'.sp + 4)).setPc (s.mem.read s.sp .long))) := by
  change execRts s = _
  rw [execRts, readMem_ok _ _ _ h, andThen_ok]

/-- A call to an even target pushes the address after its own words, then goes to the target. -/
theorem finish_callTo_stored {t : Long} {s : State} (i : Instr) (ht : even t = true)
    (hal : aligned (s.sp - 4) .long s = true) :
    ∃ u, Stored (s.sp - 4) .long (s.pc + i.ilen) s u ∧
      finish (callTo t i s) = .next { u with a := s.a.set 7 (s.sp - 4), pc := t } := by
  obtain ⟨u, hu, hpush⟩ := push_stored (s.pc + i.ilen) hal
  refine ⟨u, hu, ?_⟩
  rw [callTo, finish_checkTarget_even _ ht, hpush]
  rfl

/-- Settles O32: each instruction is a transfer or a call, whose target is even. -/
theorem jumpsAndSubroutines : Obligations.JumpsAndSubroutines := by
  intro s
  refine ⟨fun ea t hc hv ha heven => ⟨?jmp, fun hal => ?jsr⟩, fun d heven hal => ?bsr,
    fun h heven => ?rts⟩
  case jmp => rw [exec_jmp hc hv ha, finish_checkTarget_even _ heven]; rfl
  case jsr => rw [exec_jsr hc hv ha]; exact finish_callTo_stored (.jsr ea) heven hal
  case bsr => rw [exec_bsr]; exact finish_callTo_stored (.bsr d) heven hal
  case rts => rw [exec_rts h, finish_checkTarget_even _ heven]; rfl

/-- Settles O33: each instruction is a transfer or a call, and both check the target before
anything else. -/
theorem oddTargetsRaise : Obligations.OddTargetsRaise := by
  intro s
  refine ⟨fun ea t hc hv ha hodd => ⟨?jmp, ?jsr⟩, fun d hodd => ?bsr, fun h hodd => ?rts⟩
  case jmp => rw [exec_jmp hc hv ha, finish_checkTarget_odd _ hodd]
  case jsr => rw [exec_jsr hc hv ha, callTo, finish_checkTarget_odd _ hodd]
  case bsr => rw [exec_bsr, callTo, finish_checkTarget_odd _ hodd]
  case rts => rw [exec_rts h, finish_checkTarget_odd _ hodd]

/-! ## TRAPF and NOP -/

theorem drain_nil {s : State} (h : s.writeBuffer = []) : drain s = .ok () s := by
  simp [drain, h]

/-- NOP with no error to report empties the record of stores that fetches may not see
(R336, 20_memory R81). -/
theorem exec_nop {s : State} (h : s.writeBuffer = []) :
    exec .nop s = .next { s with stale := [], pc := s.pc + 2 } := by
  change execNop s = _
  rw [execNop, drain_nil h]
  rfl

/-- Settles O34: a TRAPF of any form is its length alone, and NOP has nothing to report. -/
theorem trapfAndNop : Obligations.TrapfAndNop :=
  fun _ => ⟨fun _ => ⟨rfl, rfl, rfl⟩, exec_nop⟩

end Sys2Proof.Machine

/-! System control: SR and CCR as operands, MOVEC, RTE, STOP and HALT, the debug instructions, and
the instructions that end in an exception (46_system_control R360 to R374, 60_exceptions R410 to
R430). -/

namespace Sys2Proof.Machine

/-! ## Exception entry that completes -/

/-- The first long word of a frame, as concatenated fields and as their sum (60_exceptions R411). -/
theorem frameWord_eq_frameHead (vector : Byte) (fs : BitVec 4) (s : State) :
    frameWord s.sp fs vector s.sr = frameHead vector fs s := by
  have hsr := s.sr.toWord.isLt
  have hvector := vector.isLt
  have hformat : (4#4 + (s.sp.extractLsb' 0 2).setWidth 4).toNat = 4 + s.sp.toNat % 4 := by
    simp only [BitVec.toNat_add, BitVec.toNat_ofNat, BitVec.toNat_setWidth,
      BitVec.extractLsb'_toNat, Nat.shiftRight_zero]
    omega
  have hhigh : (fs.extractLsb' 2 2).toNat = fs.toNat / 4 := by
    have := fs.isLt
    rw [BitVec.extractLsb'_toNat, Nat.shiftRight_eq_div_pow]
    omega
  have hlow : (fs.extractLsb' 0 2).toNat = fs.toNat % 4 := BitVec.extractLsb'_toNat ..
  have hhighLt := (fs.extractLsb' 2 2).isLt
  apply BitVec.eq_of_toNat_eq
  refine (append_toNat _ _).trans ?_
  simp only [append_toNat, frameHead, BitVec.toNat_ofNat, hformat, hlow]
  rw [hhigh] at hhighLt ⊢
  omega

theorem writeAnswer_of_writable {a : Long} {sz : Size} {s : State} (h : writable a sz s = true) :
    (s.writeAnswer a sz == .ok) = true := by
  rw [writable, Bool.and_eq_true] at h
  rw [writeAnswer_ok]
  exact h.2

theorem canRead_of_readable {a : Long} {sz : Size} {s : State} (h : readable a sz s = true) :
    s.canRead a sz = true := by
  rw [readable, Bool.and_eq_true] at h
  exact h.2

/-- Where nothing on the way fails, the frame is written and the handler entered, and the level of
an interrupt shows in SR alone (60_exceptions R410). -/
theorem takeException_of_canEnter {vector : Byte} {spc : Long} {fs : BitVec 4} {s : State}
    (level : Option (BitVec 3)) (h : canEnter vector spc fs s = true) :
    takeException vector spc fs level s =
      { entered vector spc fs s with sr := s.sr.enter s.cfg.irqClearsM level } := by
  have hmode : State.answers (s.setSr (s.sr.enter s.cfg.irqClearsM level)) =
      (inHandlerMode s).answers := by
    cases level <;> rfl
  simp only [canEnter, Bool.and_eq_true] at h
  obtain ⟨⟨⟨⟨hpc, hhead⟩, hvector⟩, heven⟩, hfetch⟩ := h
  have hwrite := writeAnswer_of_writable hpc
  have hwrite' := writeAnswer_of_writable hhead
  have hread := canRead_of_readable hvector
  rw [even_eq, Bool.not_eq_true'] at heven
  simp only [State.writeAnswer, State.canRead] at hwrite hwrite' hread
  simp only [handlerOf, framed] at heven hfetch
  simp only [takeException, vectorAddr_eq, frameSp_eq, frameWord_eq_frameHead, State.writeAnswer,
    State.canRead, State.canFetch, hmode, hwrite, hwrite', hread, heven]
  exact if_pos hfetch

/-- An instruction that raises an exception whose entry completes. -/
theorem finish_raise_of_canEnter {x : Exc} {vector : Byte} {spc : Long} {fs : BitVec 4} {s : State}
    (hx : raiseExc x s = takeException vector spc fs none s)
    (h : canEnter vector spc fs s = true) :
    finish (.raise x s) = .next (entered vector spc fs s) := by
  rw [finish_raise, hx, takeException_of_canEnter none h]
  rfl

/-! ## TRAP, the illegal instructions, line A and line F -/

/-- Settles O40: each instruction is the exception it raises, with the program counter of R415. -/
theorem trappingInstructions : Obligations.TrappingInstructions :=
  fun _ => ⟨fun _ h => finish_raise_of_canEnter rfl h,
    fun h => ⟨finish_raise_of_canEnter rfl h, finish_raise_of_canEnter rfl h⟩,
    fun h _ => finish_raise_of_canEnter rfl h,
    fun h _ => finish_raise_of_canEnter rfl h⟩

/-! ## Privilege -/

/-- A privileged instruction checks the mode before anything else (R360). -/
theorem exec_privileged {i : Instr} (h : isPrivileged i = true) (s : State) :
    ∃ k, exec i s = finish ((supervisorOnly s).andThen k) := by
  cases i with
  | moveFromSr | moveToSr | movec | rte | stop | halt | wdebug => exact ⟨_, rfl⟩
  | _ => cases h

/-- The privilege violation in user mode stops all that follows the check (60_exceptions R426). -/
theorem finish_supervisorOnly_user {s : State} (k : Unit → State → Eff Unit)
    (hu : s.sr.s = false) (h : canEnter 8 s.pc 0 s = true) :
    finish ((supervisorOnly s).andThen k) = .next (entered 8 s.pc 0 s) := by
  rw [supervisorOnly_user hu, andThen_raise]
  exact finish_raise_of_canEnter rfl h

theorem pulsePrivilege_privileged {s : State} (h : s.cfg.pulseWddataPrivileged = true) :
    pulsePrivilege s = supervisorOnly s := by
  rw [pulsePrivilege, if_pos h]

theorem pulsePrivilege_allowed {s : State}
    (h : s.cfg.pulseWddataPrivileged = false ∨ s.sr.s = true) : pulsePrivilege s = .ok () s := by
  cases hp : s.cfg.pulseWddataPrivileged with
  | false => simp [pulsePrivilege, hp]
  | true =>
    rw [hp] at h
    rw [pulsePrivilege_privileged hp, supervisorOnly_supervisor (h.resolve_left (by decide))]

theorem exec_wddataInstr (sz : Size) (ea : Ea) (s : State) :
    exec (wddataInstr sz ea) s = writeDdata sz ea (wddataInstr sz ea) s := by
  cases sz <;> rfl

/-- Settles O41: each of the instructions begins with the check of the mode, and does nothing after
it in user mode. -/
theorem privilegeViolations : Obligations.PrivilegeViolations := by
  intro s i hu henter
  refine ⟨fun hi => ?privileged, fun hp => ⟨?pulse, fun sz ea => ?wddata⟩⟩
  case privileged =>
    obtain ⟨k, hk⟩ := exec_privileged hi s
    rw [hk, finish_supervisorOnly_user k hu henter]
  case pulse =>
    change execPulse s = _
    rw [execPulse, pulsePrivilege_privileged hp, finish_supervisorOnly_user _ hu henter]
  case wddata =>
    rw [exec_wddataInstr, writeDdata, pulsePrivilege_privileged hp,
      finish_supervisorOnly_user _ hu henter]

/-! ## SR and CCR as operands -/

/-- CCR as a remainder of SR (10_state R29). -/
theorem ccrWord_setWidth (sr : SR) :
    sr.ccrWord.setWidth 32 = BitVec.ofNat 32 (sr.toWord.toNat % 32) := by
  have hccr : sr.ccrWord.toNat = sr.toWord.toNat % 32 := by
    rw [ccrWord_eq, BitVec.toNat_and]
    exact Nat.and_two_pow_sub_one_eq_mod sr.toWord.toNat 5
  rw [← hccr, BitVec.ofNat_toNat]

/-- Writing CCR takes the five low bits of the word (10_state R29, D1). -/
theorem setCcr_eq_ccrOf (sr : SR) (v : Long) : sr.setCcr (v.setWidth 16) = ccrOf sr v.toNat := by
  have hbit (k : Nat) (hk : k < 16) :
      (v.setWidth 16).getLsbD k = decide (v.toNat / 2 ^ k % 2 = 1) := by
    rw [BitVec.getLsbD_setWidth, ← bitOf_eq_getLsbD, bitOf]
    simp [hk]
  have hzero : (v.setWidth 16).getLsbD 0 = decide (v.toNat % 2 = 1) := by
    rw [hbit 0 (by decide), Nat.pow_zero, Nat.div_one]
  rw [SR.setCcr, hbit 4 (by decide), hbit 3 (by decide), hbit 2 (by decide), hbit 1 (by decide),
    hzero]
  rfl

theorem exec_moveFromSr (n : RegNum) {s : State} (hs : s.sr.s = true) :
    exec (.moveFromSr n) s = .next { s with
      d := s.d.set n (replaceLow (s.dreg n) (s.sr.toWord.setWidth 32) .word)
      stale := [], pc := s.pc + 2 } := by
  change execMoveFromSr n s = _
  rw [execMoveFromSr, supervisorOnly_supervisor hs, ← mergeLow_eq]
  rfl

theorem exec_moveFromCcr (n : RegNum) (s : State) :
    exec (.moveFromCcr n) s = .next { s with
      d := s.d.set n (replaceLow (s.dreg n) (BitVec.ofNat 32 (s.sr.toWord.toNat % 32)) .word)
      stale := [], pc := s.pc + 2 } := by
  rw [← ccrWord_setWidth, ← mergeLow_eq]
  rfl

theorem exec_moveToSr {ea : Ea} {s : State} (hs : s.sr.s = true)
    (h : eaReadable ea .word s = true) :
    exec (.moveToSr ea) s = .next { eaAfter ea .word s with
      sr := SR.ofWord ((eaValue ea .word s).setWidth 16), stale := []
      pc := s.pc + BitVec.ofNat 32 (2 + 2 * ea.words .word) } := by
  change execMoveToSr ea s = _
  rw [execMoveToSr, supervisorOnly_supervisor hs, andThen_ok, readEa_readable h, ← eaAfter_pc ea]
  rfl

theorem exec_moveToCcr {ea : Ea} {s : State} (h : eaReadable ea .word s = true) :
    exec (.moveToCcr ea) s = .next { eaAfter ea .word s with
      sr := ccrOf s.sr (eaValue ea .word s).toNat, stale := []
      pc := s.pc + BitVec.ofNat 32 (2 + 2 * ea.words .word) } := by
  change execMoveToCcr ea s = _
  rw [execMoveToCcr, readEa_readable h, ← setCcr_eq_ccrOf, ← eaAfter_sr ea .word, ← eaAfter_pc ea]
  rfl

/-- Settles O35: SR and CCR are read as words, and written from a readable operand. -/
theorem statusRegisterMoves : Obligations.StatusRegisterMoves :=
  fun s => ⟨fun n => ⟨exec_moveFromSr n, exec_moveFromCcr n s⟩,
    fun _ h => ⟨fun hs => exec_moveToSr hs h, exec_moveToCcr h⟩⟩

/-! ## MOVEC -/

/-- MOVEC in supervisor mode is the effect of its code, then the end of the instruction (R365). -/
theorem exec_movec {r : Reg} {rc : BitVec 12} {s : State} (hs : s.sr.s = true) :
    exec (.movec r rc) s = finish ((movecEffect rc (s.reg r) s).andThen fun _ t =>
      .ok () (t.sync.advance (.movec r rc))) := by
  change execMovec r rc s = _
  rw [execMovec, supervisorOnly_supervisor hs, andThen_ok]

theorem exec_movec_vbr (r : Reg) {s : State} (hs : s.sr.s = true) :
    exec (.movec r 0x801) s = .next { s with
      vbr := BitVec.ofNat 12 ((s.reg r).toNat / 2 ^ 20), stale := [], pc := s.pc + 4 } := by
  have hvbr : (s.reg r).extractLsb' 20 12 = BitVec.ofNat 12 ((s.reg r).toNat / 2 ^ 20) := by
    rw [← Nat.shiftRight_eq_div_pow]
    rfl
  rw [exec_movec hs, ← hvbr]
  rfl

/-- A register that the chip has takes the value (R365). -/
theorem movecEffect_implemented {rc : BitVec 12} {c : CtrlReg} {s : State} (v : Long)
    (hrc : (rc, c) ∈ ctrlCodes) (h : s.cfg.implementedCtrl.contains c = true) :
    movecEffect rc v s = .ok () (writeCtrl c v s) := by
  obtain ⟨hreg, hne⟩ := ctrlRegOf_code rc c hrc
  simp only [movecEffect, if_neg hne, hreg, if_pos h]

/-- A register that the chip lacks, MBAR apart, is not written (R365). -/
theorem movecEffect_missing {rc : BitVec 12} {c : CtrlReg} {s : State} (v : Long)
    (hrc : (rc, c) ∈ ctrlCodes) (h : s.cfg.implementedCtrl.contains c = false)
    (hc : c ≠ .mbar) : movecEffect rc v s = .ok () s := by
  obtain ⟨hreg, hne⟩ := ctrlRegOf_code rc c hrc
  simp only [movecEffect, if_neg hne, hreg, h, if_neg Bool.false_ne_true, if_neg hc]

/-- A missing MBAR hangs the machine on some chips (R365, D21). -/
theorem movecEffect_missing_mbar_hang {rc : BitVec 12} {s : State} (v : Long)
    (hrc : (rc, CtrlReg.mbar) ∈ ctrlCodes) (h : s.cfg.implementedCtrl.contains .mbar = false)
    (hbar : s.cfg.mbarUnimplemented = .hang) :
    movecEffect rc v s = .ok () { s with run := .haltedFault } := by
  obtain ⟨hreg, hne⟩ := ctrlRegOf_code rc .mbar hrc
  simp only [movecEffect, if_neg hne, hreg, h, if_neg Bool.false_ne_true, if_pos, hbar]

/-- On the others it is an access error (R365, D21). -/
theorem movecEffect_missing_mbar_error {rc : BitVec 12} {s : State} (v : Long)
    (hrc : (rc, CtrlReg.mbar) ∈ ctrlCodes) (h : s.cfg.implementedCtrl.contains .mbar = false)
    (hbar : s.cfg.mbarUnimplemented = .accessError) :
    movecEffect rc v s = .raise (.accessWrite 0b1000) s := by
  obtain ⟨hreg, hne⟩ := ctrlRegOf_code rc .mbar hrc
  simp only [movecEffect, if_neg hne, hreg, h, if_neg Bool.false_ne_true, if_pos, hbar]

/-- Settles O36: VBR by its code, the ten other registers by whether the chip has them. -/
theorem moveControl : Obligations.MoveControl := by
  intro s r rc hs platform
  refine ⟨fun hrc => ?vbr, fun c hrc => ⟨fun himpl => ?implemented, fun hmissing hc => ?missing,
    fun hmissing hc => ?mbar⟩⟩
  case vbr =>
    subst hrc
    exact exec_movec_vbr r hs
  case implemented =>
    refine ⟨setCtrl c (s.reg r) s.ctrl, setCtrl_same .., fun c' => setCtrl_other c c' _ _, ?_⟩
    rw [exec_movec hs, movecEffect_implemented _ hrc himpl]
    rfl
  case missing =>
    rw [exec_movec hs, movecEffect_missing _ hrc hmissing hc]
    rfl
  case mbar =>
    subst hc
    refine ⟨fun hbar => ?_, fun hbar => ?_⟩
    · rw [exec_movec hs, movecEffect_missing_mbar_hang _ hrc hmissing hbar]
      rfl
    · rw [exec_movec hs, movecEffect_missing_mbar_error _ hrc hmissing hbar, andThen_raise,
        finish_raise]

/-! ## RTE -/

/-- The format field's top bits are 01 for the formats 4 to 7 (60_exceptions R430). -/
theorem formatValid_eq (w : Long) :
    formatValid w = decide (4 ≤ w.toNat / 2 ^ 28 ∧ w.toNat / 2 ^ 28 ≤ 7) := by
  have hw := w.isLt
  have htop : (w.extractLsb' 30 2).toNat = w.toNat / 2 ^ 30 := by
    rw [BitVec.extractLsb'_toNat, Nat.shiftRight_eq_div_pow]
    omega
  rw [formatValid, beq_eq_decide, decide_eq_decide, ← BitVec.toNat_inj, htop]
  change w.toNat / 2 ^ 30 = 1 ↔ _
  omega

/-- What RTE restores, with A7 moved over the frame and what aligned it (R366, R413). -/
theorem returnFromException_sync (w0 w1 : Long) (s : State) :
    (returnFromException w0 w1 s).sync = { s with
      sr := SR.ofWord (w0.setWidth 16)
      a := s.a.set 7 (s.sp + 8 + BitVec.ofNat 32 (w0.toNat / 2 ^ 28 % 4))
      pc := w1
      stale := [] } := by
  have hpad : (w0.extractLsb' 28 2).setWidth 32 = BitVec.ofNat 32 (w0.toNat / 2 ^ 28 % 4) := by
    rw [← BitVec.ofNat_toNat, BitVec.extractLsb'_toNat, Nat.shiftRight_eq_div_pow]
  rw [returnFromException, hpad, BitVec.setWidth_eq_extractLsb' (by decide)]
  rfl

theorem exec_rte_unreadable {s : State} (hs : s.sr.s = true)
    (h : readable s.sp .long s = false) :
    exec .rte s = .next (raiseExc (readFault s.sp .long s) s) := by
  change execRte s = _
  rw [execRte, supervisorOnly_supervisor hs, andThen_ok, readMem_error _ _ _ h, andThen_raise,
    finish_raise]

/-- Past the first long word the format decides: PC is read and its target checked, or the format
error raised (R366, D23). -/
theorem exec_rte_readable {s : State} (hs : s.sr.s = true) (h : readable s.sp .long s = true) :
    exec .rte s = finish
      (if formatValid (s.mem.read s.sp .long) then
        (readMem (s.sp + 4) .long s).andThen fun w1 t =>
          (checkTarget w1 t).andThen fun _ u =>
            .ok () (returnFromException (s.mem.read s.sp .long) w1 u).sync
      else .raise .format s) := by
  change execRte s = _
  rw [execRte, supervisorOnly_supervisor hs, andThen_ok, readMem_ok _ _ _ h, andThen_ok]

/-- Settles O37: the first long word, its format, the second long word and its parity, in that
order (D23). -/
theorem rteReturnsFromException : Obligations.ReturnFromException := by
  intro s hs w0 w1 format
  refine ⟨fun h hlow hhigh => ?valid, fun h hformat => ?invalid, exec_rte_unreadable hs⟩
  case invalid =>
    have hbad : formatValid w0 = false := by
      rw [formatValid_eq, decide_eq_false_iff_not]
      omega
    rw [exec_rte_readable hs h, if_neg (by rw [hbad]; exact Bool.false_ne_true)]
    rfl
  case valid =>
    have hvalid : formatValid w0 = true := by
      rw [formatValid_eq, decide_eq_true_iff]
      exact ⟨hlow, hhigh⟩
    rw [exec_rte_readable hs h, if_pos hvalid]
    refine ⟨fun h4 heven => ?_, fun h4 hodd => ?_, fun h4 => ?_⟩
    · rw [readMem_ok _ _ _ h4, andThen_ok, finish_checkTarget_even _ heven, finish_ok,
        returnFromException_sync]
    · rw [readMem_ok _ _ _ h4, andThen_ok, finish_checkTarget_odd _ hodd]
    · rw [readMem_error _ _ _ h4, andThen_raise, finish_raise]

/-! ## STOP and HALT -/

/-- STOP with no error to report: the trace bit before it decides (R367). -/
theorem exec_stop {s : State} (v : Word) (hs : s.sr.s = true) (h : s.writeBuffer = []) :
    exec (.stop v) s = finish
      (if s.sr.t then
        .raise .trace { s with sr := SR.ofWord v, stale := [], pc := s.pc + 4 }
      else .ok () { s with sr := SR.ofWord v, run := .stopped, stale := [], pc := s.pc + 4 }) := by
  change execStop v s = _
  rw [execStop, supervisorOnly_supervisor hs, andThen_ok, drain_nil h]
  rfl

theorem exec_halt {s : State} (hs : s.sr.s = true) (h : s.writeBuffer = []) :
    exec .halt s = .next { s with
      run := .haltedByInstruction, debugEvents := s.debugEvents ++ [.halt]
      stale := [], pc := s.pc + 2 } := by
  change execHalt s = _
  rw [execHalt, supervisorOnly_supervisor hs, andThen_ok, drain_nil h]
  rfl

/-- Settles O38: STOP by the trace bit before it, HALT with its event. -/
theorem stopAndHalt : Obligations.StopAndHalt := by
  intro s v hs h
  refine ⟨fun ht => ?untraced, fun ht => ?traced, exec_halt hs h⟩
  case untraced => rw [exec_stop v hs h, ht, if_neg Bool.false_ne_true, finish_ok]
  case traced =>
    rw [exec_stop v hs h, if_pos ht]
    rfl

/-! ## The debug instructions -/

/-- PULSE where it may run (R369). -/
theorem exec_pulse {s : State} (h : s.cfg.pulseWddataPrivileged = false ∨ s.sr.s = true) :
    exec .pulse s = .next { s with
      debugEvents := s.debugEvents ++ [.pulse], stale := [], pc := s.pc + 2 } := by
  change execPulse s = _
  rw [execPulse, pulsePrivilege_allowed h]
  rfl

theorem wddataInstr_ilen (sz : Size) (ea : Ea) :
    (wddataInstr sz ea).ilen = BitVec.ofNat 32 (2 + 2 * ea.words sz) := by
  cases sz <;> rfl

/-- WDDATA where it may run, of an operand that can be read (R370). -/
theorem exec_wddataInstr_readable {sz : Size} {ea : Ea} {s : State}
    (hp : s.cfg.pulseWddataPrivileged = false ∨ s.sr.s = true) (h : eaReadable ea sz s = true) :
    exec (wddataInstr sz ea) s = .next { eaAfter ea sz s with
      debugEvents := s.debugEvents ++ [.pulse, .ddata sz (eaValue ea sz s)]
      stale := [], pc := s.pc + BitVec.ofNat 32 (2 + 2 * ea.words sz) } := by
  obtain ⟨regs, hafter⟩ := eaAfter_eq ea sz s
  have hevents (x y : DebugEvent) :
      s.debugEvents ++ [x, y] = s.debugEvents ++ [x] ++ [y] := by
    rw [List.append_assoc]
    rfl
  rw [exec_wddataInstr, writeDdata, pulsePrivilege_allowed hp, andThen_ok, readEa_readable h,
    andThen_ok, finish_ok, State.advance, wddataInstr_ilen, hafter, hevents]
  rfl

theorem wdebug_ilen (ea : Ea) :
    (Instr.wdebug ea).ilen = BitVec.ofNat 32 (4 + 2 * ea.words .long) := by
  rw [Instr.ilen, Instr.extWords, Nat.mul_add, ← Nat.add_assoc]

/-- WDEBUG in supervisor mode at a multiple of 4 whose two long words can be read (R371). -/
theorem exec_wdebug {ea : Ea} {s : State} {a : Long} (hs : s.sr.s = true)
    (hea : ea.isIndOrDisp = true) (ha : eaAddr ea .long s = some a) (hal : a.toNat % 4 = 0)
    (h0 : readable a .long s = true) (h1 : readable (a + 4) .long s = true) :
    exec (.wdebug ea) s = .next { s with
      debugEvents := s.debugEvents ++
        [.wdebug (s.mem.read a .long) (s.mem.read (a + 4) .long)]
      stale := [], pc := s.pc + BitVec.ofNat 32 (4 + 2 * ea.words .long) } := by
  obtain ⟨hc, hv⟩ := isControl_of_isIndOrDisp hea
  have hmis : ¬ misaligned a .long = true := by
    rw [misaligned_eq, decide_eq_true_eq, not_not]
    exact hal
  change execWdebug ea s = _
  rw [execWdebug, supervisorOnly_supervisor hs, andThen_ok, addrEa_control hc hv ha, andThen_ok,
    if_neg hmis, readMem_ok _ _ _ h0, andThen_ok, readMem_ok _ _ _ h1, ← wdebug_ilen]
  rfl

/-- Settles O39: the events of each, after the operand as every readable operand is read. -/
theorem debugInstructions : Obligations.DebugInstructions :=
  fun _ => ⟨fun hp => ⟨exec_pulse hp, fun _ _ h => exec_wddataInstr_readable hp h⟩,
    fun _ _ hs hea ha hal h0 h1 => exec_wdebug hs hea ha hal h0 h1⟩

end Sys2Proof.Machine

/-! The instruction boundary: trace, the debug interrupt, interrupts and their inhibition, and
none of them (60_exceptions R431 to R450). -/

namespace Sys2Proof.Machine

/-! ## Which of them comes -/

/-- A pending trace comes first (60_exceptions R432). -/
theorem boundary_traced (inp : EnvInput) {s : State} (hrun : s.run = .running)
    (h : s.tracePending = true) : boundary inp s = takeException 9 s.pc 0 none s := by
  simp [boundary, hrun, h]

/-- Then the debug interrupt, which ends the stopped state (60_exceptions R431, D28). -/
theorem boundary_debug (inp : EnvInput) {s : State} (hrun : s.run = .running ∨ s.run = .stopped)
    (htrace : s.tracePending = false) (hinhibit : s.irqInhibit = false)
    (h : s.debugIrqPending = true) :
    boundary inp s =
      takeException 12 s.pc 0 none { s with debugIrqPending := false, run := .running } := by
  rcases hrun with hrun | hrun <;> simp [boundary, hrun, htrace, hinhibit, h]

/-- Then the interrupts. -/
theorem boundary_samples (inp : EnvInput) {s : State}
    (hrun : s.run = .running ∨ s.run = .stopped) (htrace : s.tracePending = false)
    (h : s.irqInhibit = true ∨ s.debugIrqPending = false) :
    boundary inp s = sampleInterrupts inp s := by
  rcases hrun with hrun | hrun <;> rcases h with h | h <;> simp [boundary, hrun, htrace, h]

/-! ## Interrupts -/

/-- While interrupts are inhibited the level is latched and nothing taken (60_exceptions R444). -/
theorem sampleInterrupts_inhibited (inp : EnvInput) {s : State} (h : s.irqInhibit = true) :
    sampleInterrupts inp s = latchLevel inp.irqLevel s := by
  have hnone : recognised inp.irqLevel (latchLevel inp.irqLevel s) = none := if_pos h
  simp only [sampleInterrupts, hnone]

/-- A transition to level 7, new or latched, is taken as level 7 (60_exceptions R441, D29). -/
theorem sampleInterrupts_latched (inp : EnvInput) {s : State} (hinhibit : s.irqInhibit = false)
    (h : (latchLevel inp.irqLevel s).nmiLatched = true) :
    sampleInterrupts inp s = takeInterrupt 7 inp.iack (latchLevel inp.irqLevel s) := by
  have hseven : recognised inp.irqLevel (latchLevel inp.irqLevel s) = some 7 := by
    rw [recognised, if_neg (by rw [latchLevel, hinhibit]; exact Bool.false_ne_true), if_pos h]
  simp only [sampleInterrupts, hseven]

/-- With none latched, a level above the mask is taken and no other (60_exceptions R441). -/
theorem sampleInterrupts_unlatched (inp : EnvInput) {s : State} (hinhibit : s.irqInhibit = false)
    (h : (latchLevel inp.irqLevel s).nmiLatched = false) :
    sampleInterrupts inp s =
      if s.sr.i.toNat < inp.irqLevel.toNat then
        takeInterrupt inp.irqLevel inp.iack (latchLevel inp.irqLevel s)
      else latchLevel inp.irqLevel s := by
  have hmask : recognised inp.irqLevel (latchLevel inp.irqLevel s) =
      if s.sr.i.toNat < inp.irqLevel.toNat then some inp.irqLevel else none := by
    rw [recognised, if_neg (by rw [latchLevel, hinhibit]; exact Bool.false_ne_true),
      if_neg (by rw [h]; exact Bool.false_ne_true)]
    rfl
  simp only [sampleInterrupts, hmask]
  split_ifs <;> rfl

/-- Taking an interrupt takes its transition off the latch (60_exceptions R441). -/
theorem takeInterrupt_unlatches (level : BitVec 3) (inp : EnvInput) {s : State}
    (h : ((latchLevel inp.irqLevel s).nmiLatched && level != 7) = false) :
    takeInterrupt level inp.iack (latchLevel inp.irqLevel s) =
      takeException (iackVector s.cfg level inp.iack) s.pc 0 (some level)
        { s with prevIrqLevel := inp.irqLevel, nmiLatched := false, run := .running } := by
  rw [takeInterrupt, h]
  rfl

/-! ## Recognition -/

/-- The handler of the debug interrupt runs under the old mask, or the machine halts (D28). -/
theorem takeException_keeps_mask (vector : Byte) (spc : Long) (fs : BitVec 4) (s : State) :
    (takeException vector spc fs none s).run = .haltedFault ∨
      (takeException vector spc fs none s).run = s.run ∧
        (takeException vector spc fs none s).sr.i = s.sr.i ∧
        (takeException vector spc fs none s).debugIrqPending = s.debugIrqPending := by
  obtain ⟨m, -, -, h⟩ | h := takeException_cases vector spc fs none s <;> rw [h]
  · exact .inr ⟨rfl, rfl, rfl⟩
  · exact .inl rfl

/-- Settles O50: trace, the debug interrupt and interrupts in the order of R450, an interrupt by the
latch or by the mask. -/
theorem interruptRecognition : Obligations.InterruptRecognition := by
  intro s inp hrun hinhibit
  refine ⟨fun hrunning htrace => boundary_traced inp hrunning htrace,
    fun htrace hdebug => ?debug, fun htrace hdebug => ?interrupt⟩
  case debug =>
    rw [boundary_debug inp hrun htrace hinhibit hdebug]
    exact ⟨rfl, takeException_keeps_mask ..⟩
  case interrupt =>
    rw [boundary_samples inp hrun htrace (.inr hdebug)]
    refine ⟨fun hlatched => ?_, fun hlatched habove => ?_, fun hlatched hbelow => ?_⟩
    · rw [sampleInterrupts_latched inp hinhibit hlatched,
        takeInterrupt_unlatches 7 inp (Bool.and_false _)]
    · rw [sampleInterrupts_unlatched inp hinhibit hlatched, if_pos habove,
        takeInterrupt_unlatches _ inp (by rw [latchLevel, hlatched]; rfl)]
    · rw [sampleInterrupts_unlatched inp hinhibit hlatched, if_neg (Nat.not_lt.2 hbelow),
        latchLevel, hlatched]

/-- Settles O51: without trace an inhibited boundary does no more than latch the level. -/
theorem interruptsInhibitedInHandler : Obligations.InterruptsInhibitedInHandler := by
  intro s inp hrun htrace hinhibit
  rw [boundary_samples inp hrun htrace (.inl hinhibit), sampleInterrupts_inhibited inp hinhibit]
  rfl

end Sys2Proof.Machine

/-! Exception entry: where it completes and where it halts the machine, the frame that it leaves and
RTE from it, and the vector of each exception (60_exceptions R401 to R460). -/

namespace Sys2Proof.Machine

/-! ## Vectors -/

/-- The fault status of an address error is the platform's where it fixes one (R421). -/
theorem raiseExc_addressError_fixed {s : State} {m : AddressErrorFs} (c : AddressCause)
    (h : s.cfg.addressErrorFs = some m) :
    raiseExc (.addressError c) s = takeException 3 s.pc
      (match c with
        | .oddTarget => m.oddTarget
        | .invalidIndex => m.invalidIndex
        | .misalignedRead => m.misalignedRead
        | .misalignedWrite => m.misalignedWrite) none s := by
  simp only [raiseExc, Exc.faultStatus, addressErrorFs, h]
  cases c <;> rfl

/-- Otherwise it is a free value (60_exceptions R421, log 11). -/
theorem raiseExc_addressError_free {s : State} (c : AddressCause)
    (h : s.cfg.addressErrorFs = none) :
    raiseExc (.addressError c) s = takeException 3 s.pc (Config.freeFs s.draws) none s.drawn := by
  simp only [raiseExc, Exc.faultStatus, addressErrorFs, h]
  rfl

theorem add_setWidth_eq_ofNat {n : Nat} (k : Nat) (x : BitVec n) :
    (BitVec.ofNat 8 k + x.setWidth 8 : Byte) = BitVec.ofNat 8 (k + x.toNat) := by
  rw [BitVec.ofNat_add, ← BitVec.ofNat_toNat]

theorem raiseExc_trap (v : BitVec 4) (s : State) :
    raiseExc (.trap v) s =
      takeException (BitVec.ofNat 8 (32 + v.toNat)) (s.pc + 2) 0 none s := by
  rw [← add_setWidth_eq_ofNat]
  rfl

/-- Settles O47: each exception by its constructor, the address error by the platform's map. -/
theorem exceptionVectors : Obligations.ExceptionVectors := by
  intro s
  refine ⟨rfl, rfl, fun _ => rfl, fun h c => ⟨_, raiseExc_addressError_free c h⟩,
    fun m h => ?fixed, rfl, rfl, rfl, rfl, rfl, rfl, fun v => raiseExc_trap v s,
    fun inp hrun => ⟨boundary_traced inp hrun, fun htrace hinhibit hdebug => ?debug⟩,
    fun level => ⟨fun _ => rfl, fun hauto => ?autovector, rfl⟩⟩
  case fixed =>
    exact ⟨raiseExc_addressError_fixed .oddTarget h, raiseExc_addressError_fixed .invalidIndex h,
      raiseExc_addressError_fixed .misalignedRead h,
      raiseExc_addressError_fixed .misalignedWrite h⟩
  case debug =>
    rw [boundary_debug inp (.inl hrun) htrace hinhibit hdebug, ← hrun]
  case autovector =>
    rw [← add_setWidth_eq_ofNat]
    exact if_pos hauto

/-! ## Entry that completes, and entry that does not -/

/-- Settles O43: what entry does where nothing on the way fails, with the level in SR alone. -/
theorem exceptionEntry : Obligations.ExceptionEntry :=
  fun _ _ _ _ h => ⟨takeException_of_canEnter none h, fun l => takeException_of_canEnter (some l) h⟩

theorem frameBase_mod_four (s : State) : (frameBase s).toNat % 4 = 0 := by
  have h := s.sp.isLt
  simp only [frameBase, BitVec.toNat_sub, BitVec.toNat_ofNat, BitVec.reduceToNat]
  omega

theorem vectorSlot_mod_four (vector : Byte) (s : State) :
    (vectorSlot vector s).toNat % 4 = 0 := by
  rw [vectorSlot, BitVec.toNat_ofNat]
  omega

theorem aligned_long_of_mod_four {a : Long} (h : a.toNat % 4 = 0) (s : State) :
    aligned a .long s = true := by
  simp [aligned, Size.bytes, h]

theorem add_four_mod_four {a : Long} (h : a.toNat % 4 = 0) : (a + 4).toNat % 4 = 0 := by
  simp only [BitVec.toNat_add, BitVec.reduceToNat]
  omega

/-- A store to a multiple of 4 in the handler's mode completes if its cycle does. -/
theorem handler_writable {a : Long} (h : a.toNat % 4 = 0) (level : Option (BitVec 3)) (s : State) :
    writable a .long (inHandlerMode s) =
      ((s.setSr (s.sr.enter s.cfg.irqClearsM level)).writeAnswer a .long == .ok) := by
  rw [writable, aligned_long_of_mod_four h, Bool.true_and, writeAnswer_ok, setSr_sr, enter_s]
  rfl

/-- A read of a multiple of 4 completes if its cycle does. -/
theorem readable_of_mod_four {a : Long} (h : a.toNat % 4 = 0) (s : State) :
    readable a .long s = s.canRead a .long := by
  rw [readable, aligned_long_of_mod_four h, Bool.true_and]
  rfl

/-- The answers in the handler's mode are those of supervisor mode, whatever the level. -/
theorem setSr_enter_answers (level : Option (BitVec 3)) (s : State) :
    State.answers (s.setSr (s.sr.enter s.cfg.irqClearsM level)) = (inHandlerMode s).answers := by
  cases level <;> rfl

/-- Whatever fails on the way to the handler halts the machine (60_exceptions R455, D31). -/
theorem takeException_of_not_canEnter {vector : Byte} {spc : Long} {fs : BitVec 4} {s : State}
    (level : Option (BitVec 3)) (h : canEnter vector spc fs s = false) :
    takeException vector spc fs level s =
      haltFault (s.setSr (s.sr.enter s.cfg.irqClearsM level)) := by
  have hbase := frameBase_mod_four s
  simp only [canEnter, handler_writable (add_four_mod_four hbase) level,
    handler_writable hbase level, readable_of_mod_four (vectorSlot_mod_four vector s),
    even_eq, State.canRead] at h
  simp only [takeException, vectorAddr_eq, frameSp_eq, frameWord_eq_frameHead, State.canRead,
    State.canFetch, setSr_enter_answers]
  exact if_neg (Bool.eq_false_iff.1 h)

/-- Settles O44: the entry that does not complete is the fault-on-fault halt. -/
theorem faultOnFaultHalts : Obligations.FaultOnFaultHalts := by
  intro vector spc fs level s h
  rw [takeException_of_not_canEnter level h, haltFault_run]

/-! ## The frame in memory -/

/-- A byte a little above a long word is none of its bytes, also where addresses wrap. -/
theorem not_mem_byteAddrs_long {a : Long} {k n : Nat} (hk : k + 4 ≤ n) (hn : n < 16) :
    (a + BitVec.ofNat 32 n).toNat ∉ byteAddrs (a + BitVec.ofNat 32 k) .long := by
  have ha := a.isLt
  simp only [byteAddrs, List.mem_cons, List.not_mem_nil, or_false, not_or, BitVec.toNat_add,
    BitVec.toNat_ofNat, BitVec.reduceToNat]
  omega

/-- A long word read after a write of the long word that ends where it begins. -/
theorem read_above_write (m : Memory) (a v : Long) :
    (m.write a .long v).read (a + 4) .long = m.read (a + 4) .long := by
  have hbyte (n : Nat) (h : 4 ≤ n) (h' : n < 16) :
      (m.write a .long v).byte (a + BitVec.ofNat 32 n).toNat =
        m.byte (a + BitVec.ofNat 32 n).toNat := by
    refine byte_write_of_not_mem m a .long v _ ?_
    simpa using not_mem_byteAddrs_long (a := a) (k := 0) h h'
  have h4 := hbyte 4 (by decide) (by decide)
  have h5 := hbyte 5 (by decide) (by decide)
  have h6 := hbyte 6 (by decide) (by decide)
  have h7 := hbyte 7 (by decide) (by decide)
  simp only [Memory.read, BitVec.add_assoc]
  exact congrArg₂ _ (congrArg₂ _ (congrArg₂ _ h4 h5) h6) h7

/-- The first long word of the frame, read back. -/
theorem read_framed_head (vector : Byte) (spc : Long) (fs : BitVec 4) (s : State) :
    (framed vector spc fs s).read (frameBase s) .long = frameHead vector fs s :=
  read_write_same _ _ .long _

/-- The second long word of the frame is the stacked program counter. -/
theorem read_framed_pc (vector : Byte) (spc : Long) (fs : BitVec 4) (s : State) :
    (framed vector spc fs s).read (frameBase s + 4) .long = spc :=
  (read_above_write _ _ _).trans (read_write_same _ _ .long _)

/-- Entry writes nothing from the frame's end on. -/
theorem byte_framed_above (vector : Byte) (spc : Long) (fs : BitVec 4) (s : State) {n : Nat}
    (h : 8 ≤ n) (h' : n < 16) :
    (framed vector spc fs s).byte (frameBase s + BitVec.ofNat 32 n).toNat =
      s.mem.byte (frameBase s + BitVec.ofNat 32 n).toNat := by
  rw [framed, byte_write_of_not_mem, byte_write_of_not_mem]
  · exact not_mem_byteAddrs_long (k := 4) h h'
  · simpa using not_mem_byteAddrs_long (a := frameBase s) (k := 0) (by omega) h'

/-- The fields of the first long word do not overlap (60_exceptions R411). -/
theorem frameHead_toNat (vector : Byte) (fs : BitVec 4) (s : State) :
    (frameHead vector fs s).toNat = (4 + s.sp.toNat % 4) * 2 ^ 28 + fs.toNat / 4 * 2 ^ 26
      + vector.toNat * 2 ^ 18 + fs.toNat % 4 * 2 ^ 16 + s.sr.toWord.toNat := by
  have hvector := vector.isLt
  have hfs := fs.isLt
  have hsr := s.sr.toWord.isLt
  rw [frameHead, BitVec.toNat_ofNat, Nat.mod_eq_of_lt (by omega)]

theorem frameHead_format (vector : Byte) (fs : BitVec 4) (s : State) :
    (frameHead vector fs s).toNat / 2 ^ 28 = 4 + s.sp.toNat % 4 := by
  have hvector := vector.isLt
  have hfs := fs.isLt
  have hsr := s.sr.toWord.isLt
  rw [frameHead_toNat]
  omega

theorem frameHead_sr (vector : Byte) (fs : BitVec 4) (s : State) :
    (frameHead vector fs s).setWidth 16 = s.sr.toWord := by
  have hsr := s.sr.toWord.isLt
  apply BitVec.eq_of_toNat_eq
  rw [BitVec.toNat_setWidth, frameHead_toNat]
  omega

/-- What RTE adds to A7 is what entry took from it (60_exceptions R413). -/
theorem frameBase_add (s : State) :
    frameBase s + 8 + BitVec.ofNat 32 (s.sp.toNat % 4) = s.sp := by
  rw [frameBase, BitVec.sub_add_cancel, BitVec.sub_add_cancel]

theorem frameBase_eq (s : State) :
    frameBase s = s.sp - BitVec.ofNat 32 (8 + s.sp.toNat % 4) := by
  apply BitVec.eq_of_toNat_eq
  simp only [frameBase, BitVec.toNat_sub, BitVec.toNat_ofNat, BitVec.reduceToNat]
  omega

/-! ## RTE from a frame -/

/-- A7 back at its value leaves the address registers as they were. -/
theorem set_sp_set_sp (s : State) (x : Long) : (s.a.set 7 x).set 7 s.sp = s.a := by
  apply Vector.ext
  intro j hj
  simp only [Vector.getElem_set]
  split
  · next h => subst h; rfl
  · rfl

theorem sp_set (regs : Vector Long 8) (x : Long) : (regs.set 7 x).get 7 = x :=
  (vector_get_set regs 7 7 x).trans (if_pos rfl)

/-- A7 in the handler is the frame (60_exceptions R410). -/
theorem takeException_sp {vector : Byte} {spc : Long} {fs : BitVec 4} {s : State}
    (level : Option (BitVec 3)) (h : canEnter vector spc fs s = true) :
    (takeException vector spc fs level s).sp = frameBase s := by
  rw [takeException_of_canEnter level h]
  exact sp_set s.a (frameBase s)

theorem takeException_mem {vector : Byte} {spc : Long} {fs : BitVec 4} {s : State}
    (level : Option (BitVec 3)) (h : canEnter vector spc fs s = true) :
    (takeException vector spc fs level s).mem = framed vector spc fs s := by
  rw [takeException_of_canEnter level h]
  rfl

/-- In the handler accesses are answered as in exception processing. -/
theorem takeException_readable {vector : Byte} {spc : Long} {fs : BitVec 4} {s : State}
    (level : Option (BitVec 3)) (h : canEnter vector spc fs s = true) (a : Long) (sz : Size) :
    readable a sz (takeException vector spc fs level s) = readable a sz (inHandlerMode s) := by
  rw [takeException_of_canEnter level h]
  cases level <;> rfl

/-- Settles O46: RTE finds a valid frame, whose fields give back SR, A7 and the program counter. -/
theorem rteUndoesEntry : Obligations.RteUndoesEntry := by
  intro vector spc fs level s henter heven hhead hpc
  have hsuper : (takeException vector spc fs level s).sr.s = true := by
    rw [takeException_of_canEnter level henter]
    exact enter_s _ _ _
  obtain ⟨hvalid, -, -⟩ := rteReturnsFromException _ hsuper
  simp only [takeException_sp level henter, takeException_mem level henter, read_framed_head,
    read_framed_pc, frameHead_format, frameHead_sr, takeException_readable level henter] at hvalid
  have hpad : (4 + s.sp.toNat % 4) % 4 = s.sp.toNat % 4 := by omega
  obtain ⟨hrte, -, -⟩ := hvalid hhead (by omega) (by omega)
  rw [hrte hpc heven, hpad, frameBase_add, ofWord_toWord, takeException_of_canEnter level henter]
  simp only [entered, set_sp_set_sp]

/-- Settles O45: the frame's base, format and bytes, and what O46 says of RTE. -/
theorem frameIsSelfAligned : Obligations.FrameIsSelfAligned := by
  intro vector spc fs level s henter t k
  have hsp : t.sp = frameBase s := takeException_sp level henter
  have hmem : t.mem = framed vector spc fs s := takeException_mem level henter
  have haddr (j : Nat) : (t.sp.toNat + 8 + j) % 2 ^ 32 =
      (frameBase s + BitVec.ofNat 32 (8 + j)).toNat := by
    rw [toNat_add_ofNat, hsp, Nat.add_assoc]
  refine ⟨?base, ?aligned, ?format, fun j hj => ?gap, fun heven hhead hpc => ?rte⟩
  case base => rw [hsp, frameBase_eq]
  case aligned => rw [hsp, frameBase_mod_four]
  case format => rw [hmem, hsp, read_framed_head, frameHead_format]
  case gap =>
    rw [haddr, hmem, byte_framed_above _ _ _ _ (by omega) (by omega)]
  case rte =>
    rw [takeException_readable level henter, hsp] at hhead hpc
    exact ⟨_, rteUndoesEntry vector spc fs level s henter heven hhead hpc, rfl⟩

end Sys2Proof.Machine

/-! Reset, and the machine that does not run: the reset vectors, the faults on the way to the first
instruction, and what a halted machine waits for (70_reset R470 to R474, 46_system_control R368). -/

namespace Sys2Proof.Machine

/-! ## Reset -/

/-- Settles O55: State.reset runs at address 0 over memory that lists nothing. -/
theorem resetHasInvariant : Obligations.ResetHasInvariant :=
  .of_running rfl rfl rfl

theorem step_reset {s : State} (h : s.input.reset = true) :
    step s = .next (takeReset s.input.irqLevel (takeInput s)) := by
  rw [step, cycle, if_pos h]

/-- The reads of 0 and 4 and the fetch at the start address complete, and that address is even: what
reset needs to start the machine (70_reset R472, R473). -/
def canStart (s : State) : Bool :=
  readable 0 .long (inHandlerMode s) && readable 4 .long (inHandlerMode s) &&
    even (s.mem.read 4 .long) && (inHandlerMode s).canFetch (s.mem.read 4 .long)

/-- The accesses of reset are answered in supervisor mode, by the memory map in force (log 16). -/
theorem resetValues_answers (level : BitVec 3) (s : State) :
    (resetValues level (takeInput s)).answers = (inHandlerMode s).answers := rfl

/-- Everything reset can do (70_reset R472, R473). -/
theorem takeReset_eq (level : BitVec 3) (s : State) :
    takeReset level (takeInput s) =
      if canStart s then
        ((resetValues level (takeInput s)).setSp (s.mem.read 0 .long)).setPc (s.mem.read 4 .long)
      else haltFault (resetValues level (takeInput s)) := by
  simp only [canStart, readable_of_mod_four (a := 0) rfl, readable_of_mod_four (a := 4) rfl,
    State.canRead, State.canFetch, even_eq, ← resetValues_answers level s]
  rfl

/-- Settles O53: the vectors can be read, so reset starts from them. -/
theorem resetTakesVectors : Obligations.ResetTakesVectors := by
  intro s u hu hreset start h0 h4 heven hfetch
  subst hu
  have hstart : canStart s = true := by
    simp only [canStart, Bool.and_eq_true]
    exact ⟨⟨⟨h0, h4⟩, heven⟩, hfetch⟩
  refine ⟨_, step_reset hreset, ?_⟩
  rw [takeReset_eq, if_pos hstart]
  exact ⟨rfl, rfl, rfl, rfl, setSp_sp _ _, rfl, rfl, rfl, rfl, rfl, rfl, rfl, rfl, rfl⟩

/-! ## Halted machines -/

/-- Nothing but reset ends the fault-on-fault halt (70_reset R474). -/
theorem step_haltedFault {s : State} (hreset : s.input.reset = false)
    (hrun : s.run = .haltedFault) : step s = .next (takeInput s) := by
  rw [step, cycle, if_neg (by rw [hreset]; exact Bool.false_ne_true), advanceMachine]
  simp only [takeInput, hrun]

/-- After HALT the debug module's "go" decides (46_system_control R368, log 19). -/
theorem step_haltedByInstruction {s : State} (hreset : s.input.reset = false)
    (hrun : s.run = .haltedByInstruction) :
    step s = if s.input.go && s.cfg.hasDebug then
        .next (boundary s.input { takeInput s with run := .running })
      else .next (takeInput s) := by
  rw [step, cycle, if_neg (by rw [hreset]; exact Bool.false_ne_true), advanceMachine]
  simp only [takeInput, hrun]

/-- Settles O54: a reset that cannot start the machine halts it, and the halt stays. -/
theorem resetFaultsHalt : Obligations.ResetFaultsHalt := by
  intro s u hu hreset start hfault
  subst hu
  have hstart : canStart s = false := by
    simp only [canStart, Bool.and_eq_false_iff, or_assoc]
    exact hfault
  have hrun : (takeReset s.input.irqLevel (takeInput s)).run = .haltedFault := by
    rw [takeReset_eq, hstart, if_neg Bool.false_ne_true, haltFault_run]
  exact ⟨_, step_reset hreset, hrun, fun hreset' => ⟨_, step_haltedFault hreset' hrun, hrun⟩⟩

/-- A boundary at which nothing is pending and no level is presented takes nothing. -/
theorem boundary_quiet {inp : EnvInput} {s : State} (hrun : s.run = .running)
    (htrace : s.tracePending = false) (hdebug : s.debugIrqPending = false)
    (hlatch : s.nmiLatched = false) (hlevel : inp.irqLevel = 0) :
    boundary inp s = { s with prevIrqLevel := 0 } := by
  have hunlatched : (latchLevel inp.irqLevel s).nmiLatched = false := by
    rw [latchLevel, hlatch, hlevel]
    rfl
  have hnone : latchLevel inp.irqLevel s = { s with prevIrqLevel := 0 } := by
    rw [latchLevel, hlevel, hlatch]
    rfl
  rw [boundary_samples inp (.inl hrun) htrace (.inr hdebug), ← hnone]
  cases hinhibit : s.irqInhibit with
  | true => exact sampleInterrupts_inhibited inp hinhibit
  | false =>
    rw [sampleInterrupts_unlatched inp hinhibit hunlatched, hlevel]
    exact if_neg (Nat.not_lt_zero _)

/-- Settles O52: by the run state, "go" and the debug module, and on resuming by the boundary. -/
theorem haltedMachineWaits : Obligations.HaltedMachineWaits := by
  intro s hreset
  refine ⟨step_haltedFault hreset, fun hrun hstay => ?waits, fun hrun hgo hdebug => ?resumes, rfl⟩
  case waits =>
    have hno : (s.input.go && s.cfg.hasDebug) = false := Bool.and_eq_false_iff.2 hstay
    rw [step_haltedByInstruction hreset hrun, hno, if_neg Bool.false_ne_true]
  case resumes =>
    have hstep : step s = .next (boundary s.input { takeInput s with run := .running }) := by
      rw [step_haltedByInstruction hreset hrun, hgo, hdebug]
      rfl
    refine ⟨hstep, fun htrace => ?_, fun htrace hpending hirq hlatch hlevel => ?_⟩
    · exact hstep.trans (congrArg _ (boundary_traced s.input rfl htrace))
    · have hnone : (takeInput s).debugIrqPending = false := by
        rw [takeInput, hpending, hirq]
        rfl
      rw [hstep, boundary_quiet (s := { takeInput s with run := .running }) rfl htrace hnone
        hlatch hlevel]
      simp only [takeInput, hpending, hirq, Bool.false_and, Bool.or_false]

end Sys2Proof.Machine

/-! The step of a running machine whose fetches see memory: which words are fetched, what they
decode to, and what becomes of words that are no instruction (60_exceptions R450 steps 3 to 8). -/

namespace Sys2Proof

/-! ## The words a form asks for -/

/-- The words of an effective address depend on its mode and the size alone (30_encoding R110). -/
theorem Ea.words_eq_field (ea : Ea) (sz : Size) : ea.words sz = ea.field.words sz := by
  cases ea with
  | imm => cases sz <;> rfl
  | _ => rfl

theorem EaField.words_congr {f g : EaField} (h : f.mode = g.mode) (sz : Size) :
    f.words sz = g.words sz := by
  cases f
  cases g
  cases h
  rfl

/-- A field is completed with as many words as it asks for. -/
theorem complete_length {f : EaField} {sz : Size} {ws rest : List Word} {ea : Ea}
    (h : f.complete sz ws = some (ea, rest)) : ws.length = f.words sz + rest.length := by
  obtain ⟨hmode, -, hlength⟩ := complete_sound h
  rw [hlength, Ea.words_eq_field, EaField.words_congr hmode]

/-- A form takes as many words as the operation word asks for (30_encoding R103). -/
theorem Form.complete_length {form : Form} {ws rest : List Word} {i : Instr}
    (h : form.complete ws = .ok (i, rest)) : ws.length = form.words + rest.length := by
  cases form with
  | done =>
    cases h
    exact (Nat.zero_add _).symm
  | word =>
    cases ws <;> cases h
    exact Nat.add_comm _ _
  | long =>
    rcases ws with _ | ⟨w, _ | ⟨w', ws⟩⟩ <;> cases h
    exact Nat.add_comm rest.length 2
  | ea =>
    simp only [Form.complete] at h
    split at h <;> cases h
    next hea => exact Sys2Proof.complete_length hea
  | wordEa =>
    cases ws with
    | nil => cases h
    | cons w ws =>
      simp only [Form.complete] at h
      split at h
      next hea =>
        split at h <;> cases h
        rw [Form.words, List.length_cons, Sys2Proof.complete_length hea]
        omega
      next => cases h
  | move =>
    simp only [Form.complete] at h
    split at h
    next hsrc =>
      split at h <;> cases h
      next hdst =>
        rw [Form.words, Sys2Proof.complete_length hsrc, Sys2Proof.complete_length hdst,
          Nat.add_assoc]
    next => cases h

/-- Of an operation word's form and the instruction it becomes, both say the same length. -/
theorem extWords_of_complete {cfg : Config} {w : Word} {form : Form} {ws rest : List Word}
    {i : Instr} (hform : decodeOp cfg w = .ok form) (h : form.complete ws = .ok (i, rest)) :
    form.words = i.extWords := by
  obtain ⟨-, hlength⟩ := decodeOp_sound hform ws i rest h
  rw [Form.complete_length h] at hlength
  exact Nat.add_right_cancel hlength

/-- A decoded list begins with an operation word whose form the rest completes. -/
theorem decodeWords_cons_eq_ok {cfg : Config} {w : Word} {ws rest : List Word} {i : Instr}
    (h : decodeWords cfg (w :: ws) = .ok (i, rest)) :
    ∃ form, decodeOp cfg w = .ok form ∧ form.complete ws = .ok (i, rest) := by
  rw [decodeWords] at h
  split at h
  next => cases h
  next form hform => exact ⟨form, hform, h⟩

end Sys2Proof

namespace Sys2Proof.Machine

/-! ## Fetching an instruction -/

/-- The word of memory at the program counter. -/
def State.opword (s : State) : Word := s.mem.byte s.pc.toNat ++ s.mem.byte (s.pc + 1).toNat

/-- The operation word and `n` words after it can be fetched. -/
def State.Fetchable (s : State) (n : Nat) : Prop :=
  ∀ k, k ≤ n → s.canFetch (s.pc + BitVec.ofNat 32 (2 * k)) = true

theorem State.Fetchable.opword {s : State} {n : Nat} (h : s.Fetchable n) :
    s.canFetch s.pc = true := by
  simpa using h 0 (Nat.zero_le n)

/-- The extension words can be fetched if all the words can. -/
theorem fetchable_iff {s : State} {n : Nat} (h : s.canFetch s.pc = true) :
    s.Fetchable n ↔ ∀ k, k < n → s.canFetch (s.pc + 2 + BitVec.ofNat 32 (2 * k)) = true := by
  refine ⟨fun hall k hk => ?_, fun hext k hk => ?_⟩
  · rw [next_word]
    exact hall (k + 1) hk
  · rcases k with _ | k
    · simpa using h
    · rw [← next_word]
      exact hext k hk

/-- What fetching answers once the words that the form asks for are there. -/
def formAnswer (form : Form) (ws : List Word) (s : State) : Eff (Except Reject Instr) :=
  match form.complete ws with
  | .ok (i, _) => .ok (.ok i) s
  | .error r => .ok (.error r) s

theorem formAnswer_ok {form : Form} {ws rest : List Word} {i : Instr}
    (h : form.complete ws = .ok (i, rest)) (s : State) :
    formAnswer form ws s = .ok (.ok i) s := by
  simp only [formAnswer, h]

theorem formAnswer_error {form : Form} {ws : List Word} {r : Reject}
    (h : form.complete ws = .error r) (s : State) :
    formAnswer form ws s = .ok (.error r) s := by
  simp only [formAnswer, h]

section Fetch

variable {s : State} (hstale : s.stale = [])
include hstale

theorem fetchInstr_unfetchable (h : s.canFetch s.pc = false) :
    fetchInstr s = .raise .accessFetch s := by
  rw [fetchInstr, fetchWord_eq _ _ hstale, h]
  rfl

theorem fetchInstr_undecodable {r : Reject} (h : s.canFetch s.pc = true)
    (hop : decodeOp s.cfg s.opword = .error r) : fetchInstr s = .ok (.error r) s := by
  rw [State.opword] at hop
  simp only [fetchInstr, fetchWord_eq _ _ hstale, if_pos h, andThen_ok, hop]

/-- The operation word decides how many more words are fetched (30_encoding R103). -/
theorem fetchInstr_form {form : Form} (h : s.canFetch s.pc = true)
    (hop : decodeOp s.cfg s.opword = .ok form) :
    fetchInstr s = (fetchWords form.words (s.pc + 2) s).andThen (formAnswer form) := by
  rw [State.opword] at hop
  simp only [fetchInstr, fetchWord_eq _ _ hstale, if_pos h, andThen_ok, hop]
  rfl

theorem fetchInstr_unfetchable_extension {form : Form} (h : s.canFetch s.pc = true)
    (hop : decodeOp s.cfg s.opword = .ok form) (hext : ¬ s.Fetchable form.words) :
    fetchInstr s = .raise .accessFetch s := by
  rw [fetchInstr_form hstale h hop,
    fetchWords_error _ _ _ hstale (mt (fetchable_iff h).2 hext), andThen_raise]

theorem fetchInstr_completed {form : Form} {i : Instr} {rest : List Word}
    (hop : decodeOp s.cfg s.opword = .ok form) (hext : s.Fetchable form.words)
    (hc : form.complete (wordsAt s.mem (s.pc + 2) form.words) = .ok (i, rest)) :
    fetchInstr s = .ok (.ok i) s := by
  rw [fetchInstr_form hstale hext.opword hop,
    fetchWords_ok _ _ _ hstale ((fetchable_iff hext.opword).1 hext), andThen_ok,
    formAnswer_ok hc]

theorem fetchInstr_reserved {form : Form} {r : Reject}
    (hop : decodeOp s.cfg s.opword = .ok form) (hext : s.Fetchable form.words)
    (hc : form.complete (wordsAt s.mem (s.pc + 2) form.words) = .error r) :
    fetchInstr s = .ok (.error r) s := by
  rw [fetchInstr_form hstale hext.opword hop,
    fetchWords_ok _ _ _ hstale ((fetchable_iff hext.opword).1 hext), andThen_ok,
    formAnswer_error hc]

/-- The words in front of memory decode to an instruction: that one is fetched. -/
theorem fetchInstr_decoded {i : Instr}
    (hdecode : decodeWords s.cfg (wordsAt s.mem s.pc (1 + i.extWords)) = .ok (i, []))
    (hfetch : s.Fetchable i.extWords) : fetchInstr s = .ok (.ok i) s := by
  rw [Nat.add_comm] at hdecode
  obtain ⟨form, hop, hc⟩ := decodeWords_cons_eq_ok hdecode
  have hwords := extWords_of_complete hop hc
  rw [← hwords] at hc hfetch
  exact fetchInstr_completed hstale hop hfetch hc

end Fetch

/-! ## The step -/

section Step

variable {s : State} (hrun : s.run = .running) (hreset : s.input.reset = false)
  (hsignal : s.input.reportWriteError = false ∨ s.writeBuffer = [])
include hrun hreset hsignal

theorem step_of_fetch_raise {x : Exc} {t : State}
    (h : fetchInstr (beginInstr (takeInput s)) = .raise x t) :
    step s = .next (boundary s.input (raiseExc x t)) := by
  rw [step_running s hrun hreset hsignal, runInstr, h]
  rfl

theorem step_of_fetch_error {r : Reject} {t : State}
    (h : fetchInstr (beginInstr (takeInput s)) = .ok (.error r) t) :
    step s = afterInstr s.input (rejected r t) := by
  rw [step_running s hrun hreset hsignal, runInstr, h]

theorem step_of_fetch_ok {i : Instr} {t : State}
    (h : fetchInstr (beginInstr (takeInput s)) = .ok (.ok i) t) :
    step s = afterInstr s.input (exec i t) := by
  rw [step_running s hrun hreset hsignal, runInstr, h]

end Step

/-- Words that no row admits end the step as they are, by parameter by the illegal instruction
(30_encoding R106, D9). -/
theorem rejected_undefinedOpword (w : Word) (s : State) :
    rejected (.undefinedOpword w) s =
      if s.cfg.undefinedOpwordTraps then .next (takeException 4 s.pc 0 none s)
      else .refused (.undefinedOpword w) := rfl

/-- The privilege check comes before the second word of WDEBUG (46_system_control R360). -/
theorem rejected_reservedPrivileged (w : Word) (s : State) :
    rejected (.reservedPrivileged w) s =
      if s.sr.s then .refused (.reservedExtension w)
      else .next (takeException 8 s.pc 0 none s) := rfl

/-- Settles O1: by what is fetched, the instruction, the access error, or the words' own outcome. In
what the instruction reads, the state in which it has begun is that of the start of the step, so
that the statement is brought to speak of this one state. -/
theorem stepRunsDecodedInstruction : Obligations.StepRunsDecodedInstruction := by
  intro s hrun hreset hsignal hstale b opword fetched
  have hb : b.stale = [] := hstale
  obtain ⟨hcfg, hmem, hpc, hsr⟩ : b.cfg = s.cfg ∧ b.mem = s.mem ∧ b.pc = s.pc ∧ b.sr = s.sr :=
    ⟨rfl, rfl, rfl, rfl⟩
  have hop : opword = b.opword := rfl
  have hcan : b.canFetch = s.canFetch := rfl
  have hall : fetched = b.Fetchable := rfl
  have raises : fetchInstr b = .raise .accessFetch b →
      step s = .next (boundary s.input (takeException 2 b.pc 0b0100 none b)) :=
    step_of_fetch_raise hrun hreset hsignal
  have rejects {r : Reject} : fetchInstr b = .ok (.error r) b →
      step s = afterInstr s.input (rejected r b) :=
    step_of_fetch_error hrun hreset hsignal
  have runs {i : Instr} : fetchInstr b = .ok (.ok i) b → step s = afterInstr s.input (exec i b) :=
    step_of_fetch_ok hrun hreset hsignal
  clear_value b opword fetched
  subst hop hall
  rw [← hcfg, ← hmem, ← hpc, ← hsr, ← hcan]
  refine ⟨fun i _ hdecode hfetch => ?decoded, fun h => raises (fetchInstr_unfetchable hb h),
    fun form h hop hext => raises (fetchInstr_unfetchable_extension hb h hop hext),
    fun w h hop => ?undefined, fun w h hop => rejects (fetchInstr_undecodable hb h hop),
    fun form w hop hfetch => ⟨fun hc => rejects (fetchInstr_reserved hb hop hfetch hc),
      fun hc => ?privileged⟩⟩
  case decoded =>
    rw [runs (fetchInstr_decoded hb hdecode hfetch)]
    exact ⟨fun t hexec => by rw [hexec, afterInstr], fun r hexec => by rw [hexec, afterInstr]⟩
  case undefined =>
    rw [rejects (fetchInstr_undecodable hb h hop), rejected_undefinedOpword]
    exact ⟨fun htraps => by rw [htraps, if_neg Bool.false_ne_true, afterInstr],
      fun htraps => by rw [if_pos htraps, afterInstr]⟩
  case privileged =>
    rw [rejects (fetchInstr_reserved hb hop hfetch hc), rejected_reservedPrivileged]
    exact ⟨fun hs => by rw [if_pos hs, afterInstr],
      fun hs => by rw [hs, if_neg Bool.false_ne_true, afterInstr]⟩

end Sys2Proof.Machine

/-! Every well-formed instruction outside the open cases completes or ends in an exception, and
either way what the boundary after it looks at is known: the trace and the inhibition are as they
were when the instruction began, or as exception entry leaves them (60_exceptions R400, R432, R444). -/

namespace Sys2Proof.Machine

/-! ## Parts that complete -/

/-- The two flags by which the boundary after an instruction knows whether it was traced and whether
it ended in an exception (60_exceptions R432, R444). -/
def State.marks (s : State) : Bool × Bool := (s.tracePending, s.irqInhibit)

/-- A part of an instruction that starts in `s` is not refused, and if it ends it leaves the two
flags alone. What it raises sets them in any case. -/
def Completes {α : Type} (s : State) : Eff α → Prop
  | .ok _ t => t.marks = s.marks
  | .raise _ _ => True
  | .refuse _ => False

/-- The result of an instruction that starts in `s`: there is a next state, in which the two flags
are as they were or as exception entry sets them, if the machine has not halted. -/
def EndsMarked (s : State) : Result → Prop
  | .next t => t.marks = s.marks ∨ t.marks = (false, true) ∨ t.run = .haltedFault
  | .fault _ => False
  | .refused _ => False

theorem Completes.of_eq {α : Type} {s t : State} {e : Eff α} (h : Completes t e)
    (hst : t.marks = s.marks) : Completes s e := by
  cases e with
  | ok v u => exact Eq.trans h hst
  | raise x u => trivial
  | refuse r => exact h

theorem Completes.andThen {α β : Type} {s : State} {e : Eff α} {k : α → State → Eff β}
    (he : Completes s e) (hk : ∀ a t, Completes t (k a t)) : Completes s (e.andThen k) := by
  cases e with
  | ok a t => exact (hk a t).of_eq he
  | raise x t => trivial
  | refuse r => exact he

/-- A part followed by updates of registers, flags and the program counter. -/
theorem Completes.passes {α : Type} {s : State} {e : Eff α} {g : α → State → State}
    (he : Completes s e) (hg : ∀ a t, (g a t).marks = t.marks) :
    Completes s (e.andThen fun a t => .ok () (g a t)) :=
  he.andThen hg

/-- Exception entry sets the two flags, or halts the machine (60_exceptions R410, R444). -/
theorem raiseExc_marks (x : Exc) (s : State) :
    (raiseExc x s).marks = (false, true) ∨ (raiseExc x s).run = .haltedFault := by
  obtain ⟨m, -, -, h⟩ | h := takeException_cases x.vector (x.stackedPc s) (x.faultStatus s).1 none
    (x.faultStatus s).2
  · exact .inl (by rw [raiseExc, h]; rfl)
  · exact .inr (by rw [raiseExc, h]; rfl)

theorem Completes.finish {s : State} {e : Eff Unit} (h : Completes s e) :
    EndsMarked s (finish e) := by
  cases e with
  | ok v t => exact .inl h
  | raise x t => exact .inr (raiseExc_marks x t)
  | refuse r => exact h

/-! ## Memory and the checks -/

theorem readMem_completes (a : Long) (sz : Size) (s : State) : Completes s (readMem a sz s) := by
  rw [readMem_eq]
  split
  · split
    · rfl
    · trivial
  · trivial

theorem writeMem_completes (a : Long) (sz : Size) (v : Long) (s : State) :
    Completes s (writeMem a sz v s) := by
  obtain ⟨-, h⟩ | ⟨-, m, st, wb, h, -⟩ := writeMem_cases a sz v s <;> rw [h]
  · trivial
  · rfl

theorem push_completes (v : Long) (s : State) : Completes s (push v s) :=
  (writeMem_completes ..).of_eq rfl

theorem checkTarget_completes (t : Long) (s : State) : Completes s (checkTarget t s) := by
  rw [checkTarget_eq]
  split
  · rfl
  · trivial

theorem drain_completes (s : State) : Completes s (drain s) := by
  obtain ⟨-, h⟩ | ⟨p, rest, -, h⟩ := drain_cases s <;> rw [h]
  · rfl
  · trivial

/-- What follows the privilege check runs in the state before it (46_system_control R360). -/
theorem supervisorOnly_completes {s : State} {k : Unit → State → Eff Unit}
    (hk : s.sr.s = true → Completes s (k () s)) : Completes s ((supervisorOnly s).andThen k) := by
  cases hs : s.sr.s with
  | true =>
    rw [supervisorOnly_supervisor hs]
    exact hk hs
  | false =>
    rw [supervisorOnly_user hs]
    trivial

theorem pulsePrivilege_completes {s : State} {k : Unit → State → Eff Unit}
    (hk : Completes s (k () s)) : Completes s ((pulsePrivilege s).andThen k) := by
  unfold pulsePrivilege
  split
  · exact supervisorOnly_completes fun _ => hk
  · exact hk

/-! ## Operands -/

/-- Resolving an operand raises the address error of an invalid index word or ends, and only an
immediate mode ends in an immediate. -/
theorem resolve_cases (ea : Ea) (sz : Size) (s : State) :
    resolve ea sz s = .raise (.addressError .invalidIndex) s ∨
      ∃ p t, resolve ea sz s = .ok p t ∧ t.marks = s.marks ∧
        (ea.isAlterable = true → ∀ v, p ≠ .imm v) := by
  cases hv : eaIndexValid ea with
  | false => exact .inl (resolve_invalid ea sz s hv)
  | true =>
    right
    cases ha : eaAddr ea sz s with
    | none =>
      obtain ⟨p, hp, hplace⟩ := resolve_register ea sz s ha
      refine ⟨p, s, hp, rfl, fun halt v => ?_⟩
      cases ea with
      | dn | an =>
        rw [hplace]
        nofun
      | imm => cases halt
      | _ => exact hplace.elim
    | some a =>
      obtain ⟨regs, hafter⟩ := eaAfter_eq ea sz s
      exact ⟨_, _, resolve_mem ea sz s a hv ha, by rw [hafter]; rfl, nofun⟩

theorem resolve_completes (ea : Ea) (sz : Size) (s : State) : Completes s (resolve ea sz s) := by
  obtain h | ⟨p, t, h, ht, -⟩ := resolve_cases ea sz s <;> rw [h]
  · trivial
  · exact ht

/-- What follows the resolving of an operand that may be written has a place to write to. -/
theorem resolve_andThen_completes {β : Type} {ea : Ea} (halt : ea.isAlterable = true) (sz : Size)
    (s : State) {k : Place → State → Eff β}
    (hk : ∀ p t, (∀ v, p ≠ .imm v) → Completes t (k p t)) :
    Completes s ((resolve ea sz s).andThen k) := by
  obtain h | ⟨p, t, h, ht, hp⟩ := resolve_cases ea sz s <;> rw [h]
  · trivial
  · exact (hk p t (hp halt)).of_eq ht

theorem checkIndex_completes (ea : Ea) (s : State) : Completes s (checkIndex ea s) := by
  unfold checkIndex
  split
  · rfl
  · trivial

theorem readPlace_completes (p : Place) (sz : Size) (s : State) :
    Completes s (readPlace p sz s) := by
  cases p with
  | mem a => exact readMem_completes a sz s
  | _ => rfl

theorem writePlace_completes {p : Place} (hp : ∀ v, p ≠ .imm v) (sz : Size) (v : Long)
    (s : State) : Completes s (writePlace p sz v s) := by
  cases p with
  | mem a => exact writeMem_completes a sz v s
  | imm w => exact absurd rfl (hp w)
  | _ => rfl

theorem readEa_completes (ea : Ea) (sz : Size) (s : State) : Completes s (readEa ea sz s) :=
  (resolve_completes ea sz s).andThen fun p => readPlace_completes p sz

theorem writeEa_completes {ea : Ea} (halt : ea.isAlterable = true) (sz : Size) (v : Long)
    (s : State) : Completes s (writeEa ea sz v s) :=
  resolve_andThen_completes halt sz s fun _ t hp => writePlace_completes hp sz v t

theorem modifyEa_completes {ea : Ea} (halt : ea.isAlterable = true) (sz : Size)
    (f : Long → SR → Long × SR) (s : State) : Completes s (modifyEa ea sz f s) :=
  resolve_andThen_completes halt sz s fun p t hp =>
    (readPlace_completes p sz t).andThen fun _ u =>
      (writePlace_completes hp sz _ u).passes fun _ _ => rfl

theorem exists_eaAddr_of_isControl {ea : Ea} (hc : ea.isControl = true) (sz : Size) (s : State) :
    ∃ a, eaAddr ea sz s = some a := by
  cases ea with
  | ind | disp | index | absW | absL | pcDisp | pcIndex => exact ⟨_, rfl⟩
  | _ => cases hc

theorem addrEa_completes {ea : Ea} (hc : ea.isControl = true) (s : State) :
    Completes s (addrEa ea s) := by
  cases hv : eaIndexValid ea with
  | false =>
    rw [addrEa, resolve_invalid ea .long s hv]
    trivial
  | true =>
    obtain ⟨a, ha⟩ := exists_eaAddr_of_isControl hc .long s
    rw [addrEa_control hc hv ha]
    rfl

theorem movedValue_marks (src dst : Ea) (sz : Size) (v : Long) (s : State) :
    (movedValue src dst sz v s).2.marks = s.marks := by
  unfold movedValue
  split
  · split <;> rfl
  · split <;> rfl
  · rfl

theorem storeRegs_completes (rs : List Reg) (a : Long) (s : State) :
    Completes s (storeRegs rs a s) := by
  induction rs generalizing a s with
  | nil => rfl
  | cons r rs ih => exact (writeMem_completes a .long (s.reg r) s).andThen fun _ => ih (a + 4)

theorem setReg_marks (s : State) (r : Reg) (v : Long) : (s.setReg r v).marks = s.marks := by
  cases r <;> rfl

theorem loadRegs_completes (rs : List Reg) (a : Long) (s : State) :
    Completes s (loadRegs rs a s) := by
  induction rs generalizing a s with
  | nil => rfl
  | cons r rs ih =>
    exact (readMem_completes a .long s).andThen fun v t =>
      (ih (a + 4) (t.setReg r v)).of_eq (setReg_marks t r v)

/-! ## The modes that may be written -/

theorem isAlterable_of_isDataAlterable {ea : Ea} (h : ea.isDataAlterable = true) :
    ea.isAlterable = true := by
  rw [Ea.isDataAlterable, Bool.and_eq_true] at h
  exact h.2

theorem isAlterable_of_isMemoryAlterable {ea : Ea} (h : ea.isMemoryAlterable = true) :
    ea.isAlterable = true :=
  isAlterable_of_isDataAlterable (Ea.isDataAlterable_of_isMemoryAlterable h)

theorem isAlterable_of_isShort {ea : Ea} (h : ea.isShort = true) : ea.isAlterable = true := by
  cases ea with
  | dn | ind | postinc | predec | disp => rfl
  | _ => cases h

/-! ## The shapes of instructions -/

/-- An instruction that updates registers and flags alone. -/
theorem next_endsMarked {s t : State} (h : t.marks = s.marks) : EndsMarked s (.next t) := .inl h

/-- An instruction that reads an operand and then updates registers and flags. -/
theorem readEa_endsMarked (ea : Ea) (sz : Size) (s : State) {g : Long → State → State}
    (hg : ∀ v t, (g v t).marks = t.marks) :
    EndsMarked s (finish ((readEa ea sz s).andThen fun v t => .ok () (g v t))) :=
  Completes.finish <| (readEa_completes ea sz s).passes hg

/-- An instruction that reads and writes one operand. -/
theorem modifyEa_endsMarked {ea : Ea} (halt : ea.isAlterable = true) (sz : Size)
    (f : Long → SR → Long × SR) (i : Instr) (s : State) :
    EndsMarked s (finish ((modifyEa ea sz f s).andThen fun _ t => .ok () (t.advance i))) :=
  Completes.finish <| (modifyEa_completes halt sz f s).passes fun _ _ => rfl

theorem arithToEa_endsMarked (f : Long → Long → Sum) (v : Long) {ea : Ea}
    (halt : ea.isAlterable = true) (i : Instr) (s : State) :
    EndsMarked s (arithToEa f v ea i s) :=
  modifyEa_endsMarked halt _ _ i s

theorem execAddq_endsMarked (q : BitVec 3) {ea : Ea} (halt : ea.isAlterable = true) (s : State) :
    EndsMarked s (execAddq q ea s) := by
  cases ea with
  | an n => exact next_endsMarked rfl
  | _ => exact arithToEa_endsMarked _ _ halt _ s

theorem execSubq_endsMarked (q : BitVec 3) {ea : Ea} (halt : ea.isAlterable = true) (s : State) :
    EndsMarked s (execSubq q ea s) := by
  cases ea with
  | an n => exact next_endsMarked rfl
  | _ => exact arithToEa_endsMarked _ _ halt _ s

theorem clear_endsMarked (sz : Size) {ea : Ea} (h : ea.isDataAlterable = true) (i : Instr)
    (s : State) : EndsMarked s (clear sz ea i s) :=
  Completes.finish <|
    (writeEa_completes (isAlterable_of_isDataAlterable h) sz 0 s).passes fun _ _ => rfl

theorem moveTo_endsMarked (sz : Size) (src : Ea) {dst : Ea} (h : dst.isDataAlterable = true)
    (i : Instr) (s : State) : EndsMarked s (moveTo sz src dst i s) :=
  Completes.finish <| (checkIndex_completes dst s).andThen fun _ t =>
    (readEa_completes src sz t).andThen fun v u =>
      ((writeEa_completes (isAlterable_of_isDataAlterable h) sz _ _).of_eq
        (movedValue_marks src dst sz v u)).passes fun _ _ => rfl

theorem execLea_endsMarked {ea : Ea} (hc : ea.isControl = true) (n : RegNum) (s : State) :
    EndsMarked s (execLea ea n s) :=
  Completes.finish <| (addrEa_completes hc s).passes fun _ _ => rfl

theorem execPea_endsMarked {ea : Ea} (hc : ea.isControl = true) (s : State) :
    EndsMarked s (execPea ea s) :=
  Completes.finish <| (addrEa_completes hc s).andThen fun a t =>
    (push_completes a t).passes fun _ _ => rfl

theorem execMovemStore_endsMarked (mask : Word) {ea : Ea} (h : ea.isIndOrDisp = true) (s : State) :
    EndsMarked s (execMovemStore mask ea s) := by
  obtain ⟨hc, -⟩ := isControl_of_isIndOrDisp h
  exact Completes.finish <| (addrEa_completes hc s).andThen fun a t =>
    (storeRegs_completes _ a t).passes fun _ _ => rfl

theorem execMovemLoad_endsMarked (mask : Word) {ea : Ea} (h : ea.isIndOrDisp = true) (s : State) :
    EndsMarked s (execMovemLoad mask ea s) := by
  obtain ⟨hc, -⟩ := isControl_of_isIndOrDisp h
  exact Completes.finish <| (addrEa_completes hc s).andThen fun a t =>
    (loadRegs_completes _ a t).passes fun _ _ => rfl

theorem execLink_endsMarked {n : RegNum} (hn : n ≠ 7) (d16 : Word) (s : State) :
    EndsMarked s (execLink n d16 s) := by
  rw [execLink, if_neg hn]
  exact Completes.finish <| (push_completes _ s).passes fun _ _ => rfl

theorem execUnlk_endsMarked {n : RegNum} (hn : n ≠ 7) (s : State) :
    EndsMarked s (execUnlk n s) := by
  rw [execUnlk, if_neg hn]
  exact Completes.finish <|
    ((readMem_completes _ .long _).of_eq rfl).passes fun _ _ => rfl

theorem branchIf_endsMarked (cond : Cond) (d : Disp) (i : Instr) (s : State) :
    EndsMarked s (branchIf cond d i s) := by
  refine Completes.finish ?_
  split
  · exact (checkTarget_completes _ s).passes fun _ _ => rfl
  · rfl

theorem callTo_completes (t : Long) (i : Instr) (s : State) : Completes s (callTo t i s) :=
  (checkTarget_completes t s).andThen fun _ u => (push_completes _ u).passes fun _ _ => rfl

theorem execBra_endsMarked (d : Disp) (s : State) : EndsMarked s (execBra d s) :=
  Completes.finish <| (checkTarget_completes _ s).passes fun _ _ => rfl

theorem execJmp_endsMarked {ea : Ea} (hc : ea.isControl = true) (s : State) :
    EndsMarked s (execJmp ea s) :=
  Completes.finish <| (addrEa_completes hc s).andThen fun a t =>
    (checkTarget_completes a t).passes fun _ _ => rfl

theorem execJsr_endsMarked {ea : Ea} (hc : ea.isControl = true) (s : State) :
    EndsMarked s (execJsr ea s) :=
  ((addrEa_completes hc s).andThen fun a t => callTo_completes a (.jsr ea) t).finish

theorem execRts_endsMarked (s : State) : EndsMarked s (execRts s) :=
  Completes.finish <| (readMem_completes s.sp .long s).andThen fun a t =>
    (checkTarget_completes a t).passes fun _ _ => rfl

theorem execNop_endsMarked (s : State) : EndsMarked s (execNop s) :=
  Completes.finish <| (drain_completes s).passes fun _ _ => rfl

theorem execRte_endsMarked (s : State) : EndsMarked s (execRte s) :=
  Completes.finish <| supervisorOnly_completes fun _ =>
    (readMem_completes s.sp .long s).andThen fun _ t => by
      split
      · exact (readMem_completes _ .long t).andThen fun w1 u =>
          (checkTarget_completes w1 u).passes fun _ _ => rfl
      · trivial

theorem execStop_endsMarked (v : Word) (s : State) : EndsMarked s (execStop v s) :=
  Completes.finish <| supervisorOnly_completes fun _ =>
    (drain_completes s).andThen fun _ t => by
      dsimp only
      split
      · trivial
      · rfl

theorem execHalt_endsMarked (s : State) : EndsMarked s (execHalt s) :=
  Completes.finish <| supervisorOnly_completes fun _ => (drain_completes s).passes fun _ _ => rfl

theorem execMoveFromSr_endsMarked (n : RegNum) (s : State) : EndsMarked s (execMoveFromSr n s) :=
  Completes.finish <| supervisorOnly_completes fun _ => rfl

theorem execMoveToSr_endsMarked (ea : Ea) (s : State) : EndsMarked s (execMoveToSr ea s) :=
  Completes.finish <| supervisorOnly_completes fun _ =>
    (readEa_completes ea .word s).passes fun _ _ => rfl

theorem execPulse_endsMarked (s : State) : EndsMarked s (execPulse s) :=
  Completes.finish <| pulsePrivilege_completes rfl

theorem writeDdata_endsMarked (sz : Size) (ea : Ea) (i : Instr) (s : State) :
    EndsMarked s (writeDdata sz ea i s) :=
  Completes.finish <| pulsePrivilege_completes <| (readEa_completes ea sz s).passes fun _ _ => rfl

/-! ## The open cases -/

/-- A code of MOVEC that is not open is that of a control register (10_state R35). -/
theorem exists_ctrlReg_of_not_open {r : Reg} {rc : BitVec 12} {s : State}
    (hopen : isOpenCase (.movec r rc) s = false) (hvbr : rc ≠ 0x801) :
    ∃ c, ctrlRegOf rc = some c := by
  simp only [isOpenCase, bne_iff_ne.2 hvbr, Bool.true_and, List.all_eq_false, bne_iff_ne,
    not_not] at hopen
  obtain ⟨⟨code, c⟩, hmem, rfl⟩ := hopen
  obtain ⟨hc, -⟩ := ctrlRegOf_code code c hmem
  exact ⟨c, hc⟩

theorem movecEffect_completes {r : Reg} {rc : BitVec 12} {s : State}
    (hopen : isOpenCase (.movec r rc) s = false) (v : Long) :
    Completes s (movecEffect rc v s) := by
  unfold movecEffect
  split
  next => rfl
  next hvbr =>
    obtain ⟨c, hc⟩ := exists_ctrlReg_of_not_open hopen hvbr
    rw [hc]
    dsimp only
    split
    next => rfl
    next =>
      split
      next =>
        split
        · rfl
        · trivial
      next => rfl

theorem execMovec_endsMarked {r : Reg} {rc : BitVec 12} {s : State}
    (hopen : isOpenCase (.movec r rc) s = false) : EndsMarked s (execMovec r rc s) :=
  Completes.finish <| supervisorOnly_completes fun _ =>
    (movecEffect_completes hopen _).passes fun _ _ => rfl

theorem execWdebug_endsMarked {ea : Ea} {s : State} (hea : ea.isIndOrDisp = true)
    (hopen : isOpenCase (.wdebug ea) s = false) : EndsMarked s (execWdebug ea s) := by
  obtain ⟨hc, hv⟩ := isControl_of_isIndOrDisp hea
  obtain ⟨a, ha⟩ := exists_eaAddr_of_isControl hc .long s
  have haligned : ¬ misaligned a .long = true := by
    rw [misaligned_eq, decide_eq_true_eq, not_not]
    simpa [isOpenCase, ha, Size.bytes] using hopen
  refine Completes.finish <| supervisorOnly_completes fun _ => ?_
  rw [addrEa_control hc hv ha, andThen_ok, if_neg haligned]
  exact (readMem_completes a .long s).andThen fun _ t =>
    (readMem_completes (a + 4) .long t).passes fun _ _ => rfl

theorem ne_seven_of_not_open {n : RegNum} (h : (n == 7) = false) : n ≠ 7 := by
  simpa using h

/-! ## Every instruction -/

/-- Every well-formed instruction but the open cases has a next state. The cases are grouped by the
shape that gives the instruction its meaning. -/
theorem exec_endsMarked (i : Instr) (s : State) (hwf : i.wf s.cfg = true)
    (hopen : isOpenCase i s = false) : EndsMarked s (exec i s) := by
  cases i with
  | trap | illegal4AFC | illegal0000 | lineA | lineF => exact .inr (raiseExc_marks ..)
  | ori | andi | eori | not | addi | subi | cmpi | neg | negx | addx | subx =>
    exact next_endsMarked rfl
  | extW | extL | extbL | swap | moveq | scc | trapf | trapfW | trapfL | moveFromCcr =>
    exact next_endsMarked rfl
  | asrImm | asrReg | aslImm | aslReg | lsrImm | lsrReg | lslImm | lslReg =>
    exact next_endsMarked rfl
  | btstDyn | btstImm | moveaW | moveaL | tstB | tstW | tstL | moveToCcr =>
    exact readEa_endsMarked _ _ s fun _ _ => rfl
  | mulsW | muluW | mulsL | muluL | addToDn | subToDn | adda | suba =>
    exact readEa_endsMarked _ _ s fun _ _ => rfl
  | cmp | cmpa | orToDn | andToDn => exact readEa_endsMarked _ _ s fun _ _ => rfl
  | bchgDyn | bclrDyn | bsetDyn | eor =>
    exact modifyEa_endsMarked (isAlterable_of_isDataAlterable hwf) _ _ _ s
  | bchgImm | bclrImm | bsetImm =>
    exact modifyEa_endsMarked (isAlterable_of_isShort hwf) _ _ _ s
  | addToEa | subToEa | orToEa | andToEa =>
    exact modifyEa_endsMarked (isAlterable_of_isMemoryAlterable hwf) _ _ _ s
  | addq => exact execAddq_endsMarked _ hwf s
  | subq => exact execSubq_endsMarked _ hwf s
  | clrB | clrW | clrL => exact clear_endsMarked _ hwf _ s
  | moveB =>
    obtain ⟨-, hdst, -⟩ := wf_moveB_iff.1 hwf
    exact moveTo_endsMarked _ _ hdst _ s
  | moveW =>
    obtain ⟨-, hdst, -⟩ := wf_moveW_iff.1 hwf
    exact moveTo_endsMarked _ _ hdst _ s
  | moveL =>
    obtain ⟨hdst, -⟩ := wf_moveL_iff.1 hwf
    exact moveTo_endsMarked _ _ hdst _ s
  | lea => exact execLea_endsMarked hwf _ s
  | pea => exact execPea_endsMarked hwf s
  | movemStore => exact execMovemStore_endsMarked _ hwf s
  | movemLoad => exact execMovemLoad_endsMarked _ hwf s
  | link => exact execLink_endsMarked (ne_seven_of_not_open hopen) _ s
  | unlk => exact execUnlk_endsMarked (ne_seven_of_not_open hopen) s
  | bhi | bls | bcc | bcs | bne | beq | bvc | bvs | bpl | bmi | bge | blt | bgt | ble =>
    exact branchIf_endsMarked _ _ _ s
  | bra => exact execBra_endsMarked _ s
  | bsr => exact (callTo_completes _ _ s).finish
  | jmp => exact execJmp_endsMarked hwf s
  | jsr => exact execJsr_endsMarked hwf s
  | rts => exact execRts_endsMarked s
  | rte => exact execRte_endsMarked s
  | nop => exact execNop_endsMarked s
  | stop => exact execStop_endsMarked _ s
  | halt => exact execHalt_endsMarked s
  | moveFromSr => exact execMoveFromSr_endsMarked _ s
  | moveToSr => exact execMoveToSr_endsMarked _ s
  | movec => exact execMovec_endsMarked hopen
  | pulse => exact execPulse_endsMarked s
  | wddataB | wddataW | wddataL => exact writeDdata_endsMarked _ _ _ s
  | wdebug => exact execWdebug_endsMarked hwf hopen

theorem EndsMarked.exists_next {s : State} {r : Result} (h : EndsMarked s r) :
    ∃ t, r = .next t := by
  cases r with
  | next t => exact ⟨t, rfl⟩
  | fault f => exact h.elim
  | refused x => exact h.elim

/-- Settles O58: the result of each instruction is a next state. -/
theorem wellFormedInstructionsRun : Obligations.WellFormedInstructionsRun :=
  fun i s hwf hopen => (exec_endsMarked i s hwf hopen).exists_next

/-! ## Trace -/

/-- An open case has a next state in user mode alone, where it is a privilege violation
(46_system_control R360). -/
theorem exec_open_cases {i : Instr} {s : State} (hwf : i.wf s.cfg = true)
    (hopen : isOpenCase i s = true) :
    (∃ r, exec i s = .refused r) ∨ exec i s = .next (raiseExc .privilege s) := by
  obtain ⟨hlink, hunlk, hmovec, hwdebug⟩ := openCasesAreRefused s
  have huser (h : isPrivileged i = true) (hs : s.sr.s = false) :
      exec i s = .next (raiseExc .privilege s) := by
    obtain ⟨k, hk⟩ := exec_privileged h s
    rw [hk, supervisorOnly_user hs, andThen_raise, finish_raise]
  cases i with
  | link n d =>
    obtain rfl : n = 7 := beq_iff_eq.1 hopen
    exact .inl ⟨_, hlink d⟩
  | unlk n =>
    obtain rfl : n = 7 := beq_iff_eq.1 hopen
    exact .inl ⟨_, hunlk⟩
  | movec r rc =>
    cases hs : s.sr.s with
    | true => exact .inl ⟨_, hmovec r rc hs hopen⟩
    | false => exact .inr (huser rfl hs)
  | wdebug ea =>
    cases hs : s.sr.s with
    | true => exact .inl ⟨_, hwdebug ea hs hwf hopen⟩
    | false => exact .inr (huser rfl hs)
  | _ => cases hopen

/-- After any instruction that has a next state the two flags are known. -/
theorem exec_marks {i : Instr} {s t : State} (hwf : i.wf s.cfg = true)
    (h : exec i s = .next t) :
    t.marks = s.marks ∨ t.marks = (false, true) ∨ t.run = .haltedFault := by
  cases hopen : isOpenCase i s with
  | false =>
    have hmarked := exec_endsMarked i s hwf hopen
    rw [h] at hmarked
    exact hmarked
  | true =>
    obtain ⟨r, hr⟩ | hr := exec_open_cases hwf hopen
    · rw [h] at hr
      cases hr
    · rw [h] at hr
      cases hr
      exact .inr (raiseExc_marks ..)

/-- What the fetch gives is well formed on the chip (30_encoding R102 to R105). -/
theorem fetchInstr_wf {s t : State} {i : Instr} (h : fetchInstr s = .ok (.ok i) t) :
    i.wf t.cfg = true := by
  obtain ⟨w, u, -, hu⟩ := andThen_eq_ok h
  split at hu
  next => cases hu
  next form hform =>
    obtain ⟨ws, v, hws, hv⟩ := andThen_eq_ok hu
    have hcfg : v.cfg = u.cfg := by
      have hkeeps := fetchWords_keepsParams form.words (u.pc + 2) u
      rw [hws] at hkeeps
      exact congrArg Prod.fst hkeeps
    split at hv
    next i' rest hc =>
      cases hv
      obtain ⟨hwf, -⟩ := decodeOp_sound hform ws i rest hc
      rwa [hcfg]
    next => cases hv

/-- Fetching leaves the two flags as the instruction's beginning has set them (R450 step 4). -/
theorem fetchInstr_marks {s u : State} {i : Instr}
    (h : fetchInstr (beginInstr (takeInput s)) = .ok (.ok i) u) : u.marks = (s.sr.t, false) := by
  have hframe := fetchInstr_framed (beginInstr (takeInput s))
  rw [h] at hframe
  rw [PartFrame.rest hframe]
  rfl

/-- Settles O49: the two flags after the instruction select what the boundary does. -/
theorem traceExceptionIsTaken : Obligations.TraceExceptionIsTaken := by
  intro s t i u hrun hreset hsignal hfetch hexec htrun
  have hstep : step s = .next (boundary s.input t) := by
    rw [step_of_fetch_ok hrun hreset hsignal hfetch, hexec, afterInstr]
  have hmarks : t.marks = (s.sr.t, false) ∨ t.marks = (false, true) := by
    obtain h | h | h := exec_marks (fetchInstr_wf hfetch) hexec
    · exact .inl (h.trans (fetchInstr_marks hfetch))
    · exact .inr h
    · rw [htrun] at h
      cases h
  simp only [State.marks, Prod.mk.injEq] at hmarks
  refine ⟨fun hinhibit htraced => ?traced, fun hinhibit huntraced => ?untraced,
    fun hinhibit => ?exception⟩
  case traced =>
    obtain ⟨htrace, -⟩ := hmarks.resolve_right (by simp [hinhibit])
    rw [hstep, boundary_traced _ htrun (htrace.trans htraced)]
  case untraced =>
    obtain ⟨htrace, -⟩ := hmarks.resolve_right (by simp [hinhibit])
    rw [huntraced] at htrace
    rw [hstep]
    cases hdebug : t.debugIrqPending with
    | true =>
      rw [boundary_debug _ (.inl htrun) htrace hinhibit hdebug, ← htrun]
      rfl
    | false =>
      rw [boundary_samples _ (.inl htrun) htrace (.inr hdebug)]
      rfl
  case exception =>
    obtain ⟨htrace, -⟩ := hmarks.resolve_left (by simp [hinhibit])
    rw [hstep, boundary_samples _ (.inl htrun) htrace (.inl hinhibit),
      sampleInterrupts_inhibited _ hinhibit]
    rfl

end Sys2Proof.Machine
